-- ==== Sys2Proof/Word.lean ====
section
/-! DEFINITION. The widths the spec fixes (spec/00_scope.md R6, R7): a byte of the host's data bus, an offset on
the 7-bit host bus, a frame identifier and the CRC register. -/

namespace Sys2Proof

/-- One byte: the host bus data width, R7. -/
abbrev Byte := BitVec 8

/-- A byte offset 0x00..0x7F in the register window, R7 and R60. -/
abbrev Addr := BitVec 7

/-- A 16-bit value: a frame identifier (R6), RARG or FOUT. -/
abbrev Half := BitVec 16

/-- A 32-bit value: the CRC register, R7. -/
abbrev Quad := BitVec 32

end Sys2Proof
end

