-- ==== Sys2Proof/Syntax.lean ====
section
/-! DEFINITION. The command bytes as instructions: one constructor per row of spec/opcode_table.json (spec/00_scope.md
R10; spec/30_encoding.md R81, R85). -/

namespace Sys2Proof

/-- A command of the block. The rows with don't-care bits carry the command byte `c` itself; WellFormed says which
bytes belong to the row (log 10). -/
inductive Instr where
  /-- NOP, byte 0x00 (R176). -/
  | nop
  /-- CLASSIFY, byte 0x01 (R110). -/
  | classify
  /-- RESOLVE, byte 0x02 (R120). -/
  | resolve
  /-- LDDESC, byte 0x03 (R131). -/
  | lddesc
  /-- ENCODE, byte 0x04 (R140). -/
  | encode
  /-- DECODE, byte 0x05 (R150). -/
  | decode
  /-- ILLEGAL.op6-7, pattern 0000011x (R177). -/
  | illegalOp6to7 (c : Byte)
  /-- ILLEGAL.op8-15, pattern 00001xxx (R177). -/
  | illegalOp8to15 (c : Byte)
  /-- ILLEGAL.rsv-bit4, pattern xxx1xxxx (R177). -/
  | illegalRsvBit4 (c : Byte)
  /-- ILLEGAL.rsv-bit5, pattern xx10xxxx (R177). -/
  | illegalRsvBit5 (c : Byte)
  /-- ILLEGAL.rsv-bit6, pattern x100xxxx (R177). -/
  | illegalRsvBit6 (c : Byte)
  /-- ILLEGAL.rsv-bit7, pattern 1000xxxx (R177). -/
  | illegalRsvBit7 (c : Byte)
  deriving DecidableEq, Repr

end Sys2Proof
end

