-- ==== Sys2Proof/WellFormed.lean ====
section
/-! DEFINITION. Which bytes an ILLEGAL row may carry: the row's match and mask in spec/opcode_table.json
(spec/42_control.md R177). -/

namespace Sys2Proof

/-- The instruction names a row of the opcode table and carries a byte of that row's pattern. -/
def Instr.wellFormed : Instr → Bool
  | .nop => true
  | .classify => true
  | .resolve => true
  | .lddesc => true
  | .encode => true
  | .decode => true
  | .illegalOp6to7 c => c &&& 0xFE#8 == 0x06#8
  | .illegalOp8to15 c => c &&& 0xF8#8 == 0x08#8
  | .illegalRsvBit4 c => c &&& 0x10#8 == 0x10#8
  | .illegalRsvBit5 c => c &&& 0x30#8 == 0x20#8
  | .illegalRsvBit6 c => c &&& 0x70#8 == 0x40#8
  | .illegalRsvBit7 c => c &&& 0xF0#8 == 0x80#8

end Sys2Proof
end

