-- ==== Sys2Proof/Decode.lean ====
section
/-! DEFINITION. The command byte (spec/30_encoding.md R80, R81, R85, R86): the decoder, total on all 256 bytes, which
gives every byte that names no command to the ILLEGAL row it belongs to; the encoder; and the opcode table as data. -/

namespace Sys2Proof

/-- The reserved field RSV, bits [7:4] of a command byte (R80). -/
def commandRsv (c : Byte) : BitVec 4 := c.extractLsb' 4 4

/-- The operation code OP, bits [3:0] of a command byte (R80). -/
def commandOp (c : Byte) : BitVec 4 := c.extractLsb' 0 4

/-- The ILLEGAL row of a byte whose RSV field is not zero: the lowest set bit of RSV selects it
(spec/opcode_table.json, the masks of the four rsv rows). -/
def decodeReserved (c : Byte) : Instr :=
  if c.getLsbD 4 then .illegalRsvBit4 c
  else if c.getLsbD 5 then .illegalRsvBit5 c
  else if c.getLsbD 6 then .illegalRsvBit6 c
  else .illegalRsvBit7 c

/-- The decode of R81. It is total: IllegalCommand is the ILLEGAL rows' name for it (R85). -/
def decode (c : Byte) : Instr :=
  if commandRsv c ≠ 0 then decodeReserved c
  else match (commandOp c).toNat with
    | 0x0 => .nop
    | 0x1 => .classify
    | 0x2 => .resolve
    | 0x3 => .lddesc
    | 0x4 => .encode
    | 0x5 => .decode
    | 0x6 => .illegalOp6to7 c
    | 0x7 => .illegalOp6to7 c
    | _ => .illegalOp8to15 c

/-- The command byte of an instruction (R80, R81). -/
def encode : Instr → Byte
  | .nop => 0x00
  | .classify => 0x01
  | .resolve => 0x02
  | .lddesc => 0x03
  | .encode => 0x04
  | .decode => 0x05
  | .illegalOp6to7 c => c
  | .illegalOp8to15 c => c
  | .illegalRsvBit4 c => c
  | .illegalRsvBit5 c => c
  | .illegalRsvBit6 c => c
  | .illegalRsvBit7 c => c

/-- The byte decodes to no command: R85, R177. -/
def Instr.illegal : Instr → Bool
  | .nop | .classify | .resolve | .lddesc | .encode | .decode => false
  | .illegalOp6to7 _ | .illegalOp8to15 _ => true
  | .illegalRsvBit4 _ | .illegalRsvBit5 _ | .illegalRsvBit6 _ | .illegalRsvBit7 _ => true

/-- A row of spec/opcode_table.json: `c` belongs to it when `c &&& mask = value`. -/
structure TableRow where
  mnemonic : String
  mask : Byte
  value : Byte
  deriving DecidableEq, Repr

/-- The byte fits the row's pattern. -/
def TableRow.fits (r : TableRow) (c : Byte) : Bool := c &&& r.mask == r.value

/-- spec/opcode_table.json, row by row, with its match (here `value`) and mask. -/
def opcodeTable : List TableRow :=
  [⟨"NOP", 0xFF, 0x00⟩, ⟨"CLASSIFY", 0xFF, 0x01⟩, ⟨"RESOLVE", 0xFF, 0x02⟩, ⟨"LDDESC", 0xFF, 0x03⟩,
   ⟨"ENCODE", 0xFF, 0x04⟩, ⟨"DECODE", 0xFF, 0x05⟩, ⟨"ILLEGAL.op6-7", 0xFE, 0x06⟩, ⟨"ILLEGAL.op8-15", 0xF8, 0x08⟩,
   ⟨"ILLEGAL.rsv-bit4", 0x10, 0x10⟩, ⟨"ILLEGAL.rsv-bit5", 0x30, 0x20⟩, ⟨"ILLEGAL.rsv-bit6", 0x70, 0x40⟩,
   ⟨"ILLEGAL.rsv-bit7", 0xF0, 0x80⟩]

/-- The instruction's mnemonic in spec/opcode_table.json. -/
def Instr.mnemonic : Instr → String
  | .nop => "NOP"
  | .classify => "CLASSIFY"
  | .resolve => "RESOLVE"
  | .lddesc => "LDDESC"
  | .encode => "ENCODE"
  | .decode => "DECODE"
  | .illegalOp6to7 _ => "ILLEGAL.op6-7"
  | .illegalOp8to15 _ => "ILLEGAL.op8-15"
  | .illegalRsvBit4 _ => "ILLEGAL.rsv-bit4"
  | .illegalRsvBit5 _ => "ILLEGAL.rsv-bit5"
  | .illegalRsvBit6 _ => "ILLEGAL.rsv-bit6"
  | .illegalRsvBit7 _ => "ILLEGAL.rsv-bit7"

/-- The decoder on a word numbered as the opcode table numbers it. Every command is exactly 8 bits (R80), so a word of
another length is no command, and neither is a number that does not fit 8 bits. -/
def decodeTableWord (nbits w : Nat) : Option Instr :=
  if nbits = 8 ∧ w < 256 then some (decode (BitVec.ofNat 8 w)) else none

end Sys2Proof
end

