-- ==== Sys2Proof/Machine/Operands.lean ====
section
/-! DEFINITION. Operand assembly (spec/30_encoding.md R83, R84): byte order of the multi-byte registers (spec/20_memory.md
R63), the descriptor and its derived lengths (spec/00_scope.md R13; spec/41_safety_codec.md R130, R136), buffer bytes. -/

namespace Sys2Proof.Machine

/-! ## Bytes of the multi-byte registers, most significant at the lower address (R63) -/

/-- Bits [15:8] of a 16-bit register: FIDH, RARGH, FOUTH. -/
def highByte (x : Half) : Byte := x.extractLsb' 8 8

/-- Bits [7:0] of a 16-bit register: FIDL, RARGL, FOUTL. -/
def lowByte (x : Half) : Byte := x.extractLsb' 0 8

/-- `{hi, lo}` (R83). -/
def joinBytes (hi lo : Byte) : Half := hi ++ lo

/-- CRC3 = CRC[31:24] (R37). -/
def crcByte3 (x : Quad) : Byte := x.extractLsb' 24 8

/-- CRC2 = CRC[23:16] (R37). -/
def crcByte2 (x : Quad) : Byte := x.extractLsb' 16 8

/-- CRC1 = CRC[15:8] (R37). -/
def crcByte1 (x : Quad) : Byte := x.extractLsb' 8 8

/-- CRC0 = CRC[7:0] (R37). -/
def crcByte0 (x : Quad) : Byte := x.extractLsb' 0 8

/-- `{b3, b2, b1, b0}` (R83). -/
def joinCrc (b3 b2 b1 b0 : Byte) : Quad := b3 ++ b2 ++ b1 ++ b0

/-! ## Descriptors -/

/-- DIR: 0 Control, 1 Status (R30). -/
inductive Direction where
  | control | status
  deriving DecidableEq, Repr

/-- SEED: 0 NoSeed, 1 Seed (R30). -/
inductive SeedMode where
  | noSeed | seed
  deriving DecidableEq, Repr

/-- The tuple (direction, seed mode, D). -/
structure Descriptor where
  dir : Direction
  seed : SeedMode
  dlen : BitVec 4
  deriving DecidableEq, Repr

/-- `dir = b[0]`, `seed = b[1]`, `d = b[7:4]`, of DESC or of ADESC (R84, R31). -/
def descriptorOf (b : Byte) : Descriptor where
  dir := if b.getLsbD 0 then .status else .control
  seed := if b.getLsbD 1 then .seed else .noSeed
  dlen := b.extractLsb' 4 4

/-- DIR as a bit (R30). -/
def Direction.toBit : Direction → BitVec 1
  | .control => 0
  | .status => 1

/-- SEED as a bit (R30). -/
def SeedMode.toBit : SeedMode → BitVec 1
  | .noSeed => 0
  | .seed => 1

/-- DMAX(seed): 12 for NoSeed, 13 for Seed (R13). -/
def SeedMode.maxLength : SeedMode → Nat
  | .noSeed => 12
  | .seed => 13

/-- The width in bytes of the CRC field: 3 for NoSeed, 4 for Seed (R6, R13). -/
def SeedMode.crcWidth : SeedMode → Nat
  | .noSeed => 3
  | .seed => 4

/-- D, the number of data bytes. -/
def Descriptor.dataLength (d : Descriptor) : Nat := d.dlen.toNat

/-- L = D + 1 + W (R13). -/
def Descriptor.frameLength (d : Descriptor) : Nat := d.dataLength + 1 + d.seed.crcWidth

/-- A descriptor is valid if and only if D <= DMAX(seed) (R136). -/
def Descriptor.inBounds (d : Descriptor) : Bool := d.dataLength ≤ d.seed.maxLength

/-- `{d[3:0], VALID, 0, seed, dir}` with VALID = 1: the ADESC byte a successful LDDESC loads (R131). -/
def Descriptor.activeByte (d : Descriptor) : Byte := d.dlen ++ 1#1 ++ 0#1 ++ d.seed.toBit ++ d.dir.toBit

/-- The VALID bit of an ADESC byte (R31). -/
def validBit (adesc : Byte) : Bool := adesc.getLsbD 3

/-- RESOLVE's class operand, RCLS[2:0] (R84). -/
def classOperand (rcls : Byte) : BitVec 3 := rcls.extractLsb' 0 3

/-! ## Buffer bytes -/

/-- Byte `i` of a buffer. A buffer has no byte at or above its size, and no legal state asks for one (log 8). -/
def byteAt {n : Nat} (v : Vector Byte n) (i : Nat) : Byte := if h : i < n then v[i] else 0

/-- `dst[i] <- b`. Above the buffer's end nothing is stored, and no legal state asks for it (log 8). -/
def putByte {n : Nat} (dst : Vector Byte n) (i : Nat) (b : Byte) : Vector Byte n := dst.setIfInBounds i b

/-- `for i in 0 .. k-1: dst[i] <- src[i]` (R12). -/
def copyBytes {m n : Nat} (src : Vector Byte m) : Nat → Vector Byte n → Vector Byte n
  | 0, dst => dst
  | k + 1, dst => putByte (copyBytes src k dst) k (byteAt src k)

end Sys2Proof.Machine
end

