-- ==== Sys2Proof/Machine/Flags.lean ====
section
/-! DEFINITION. The error codes and bits of STATUS and ERRACC (spec/60_exceptions.md R200, R210; spec/10_state.md R26, R27)
and the names of the safety flag bits (R33, R34). The block has no condition codes (R48). -/

namespace Sys2Proof.Machine

/-! ## STATUS.ERR and ERRACC -/

/-- The command errors of R200 that this block raises. Code 4, MalformedFrame, is reserved and never raised (R208). -/
inductive CmdError where
  | invalidDescriptor | truncatedFrame | illegalCommand
  deriving DecidableEq, Repr

/-- The code written to STATUS.ERR (R200). Code 0 is OK. -/
def CmdError.code : CmdError → BitVec 3
  | .invalidDescriptor => 1
  | .truncatedFrame => 2
  | .illegalCommand => 3

/-- `STATUS.ERR <- code`: bits [2:0] only (R12, R26). -/
def setErr (status : Byte) (code : BitVec 3) : Byte := (status &&& 0xF8#8) ||| code.setWidth 8

/-- STATUS.ERR, bits [2:0] (R26). -/
def errField (status : Byte) : BitVec 3 := status.extractLsb' 0 3

/-- `ERRACC[code] <- 1` (R201). -/
def recordError (errAcc : Byte) (code : BitVec 3) : Byte := errAcc ||| (1#8 <<< code.toNat)

/-- `ERRACC[5] <- 1`: BADACC (R210). -/
def recordBadAccess (errAcc : Byte) : Byte := errAcc ||| 0x20#8

/-- `ERRACC <- ERRACC & ~(v & 0b00101110)`: write-1-to-clear (R27). -/
def clearErrors (errAcc v : Byte) : Byte := errAcc &&& ~~~(v &&& 0x2E#8)

/-! ## The names of the flag bits (R33, R34)

The block never reads a bit of FLAGS (R32): the names affect no behaviour. -/

/-- The Control flags, in the order of R33. -/
inductive ControlFlag where
  | iParEN | oAReq | rConsNr | useTO2 | activateFV | toggleH | chFAck | loopcheck
  deriving DecidableEq, Repr

/-- The Status flags, in the order of R34. Bit 1 has two names, Device_Fault and ChF_Ack_Req. -/
inductive StatusFlag where
  | iParOK | deviceFaultOrChFAckReq | ceCRC | wdTimeout | fvActivated | toggleD | consNrR | reserved
  deriving DecidableEq, Repr

/-- The bit a Control flag stands at (R33). -/
def ControlFlag.bit : ControlFlag → Fin 8
  | .iParEN => 0
  | .oAReq => 1
  | .rConsNr => 2
  | .useTO2 => 3
  | .activateFV => 4
  | .toggleH => 5
  | .chFAck => 6
  | .loopcheck => 7

/-- The bit a Status flag stands at (R34). -/
def StatusFlag.bit : StatusFlag → Fin 8
  | .iParOK => 0
  | .deviceFaultOrChFAckReq => 1
  | .ceCRC => 2
  | .wdTimeout => 3
  | .fvActivated => 4
  | .toggleD => 5
  | .consNrR => 6
  | .reserved => 7

/-- A flag's name in the set that a direction selects (R32). -/
inductive FlagName where
  | control (f : ControlFlag)
  | status (f : StatusFlag)
  deriving DecidableEq, Repr

/-- The direction whose set holds the name. -/
def FlagName.dir : FlagName → Direction
  | .control _ => .control
  | .status _ => .status

/-- The bit of FLAGS the name stands for. -/
def FlagName.bit : FlagName → Fin 8
  | .control f => f.bit
  | .status f => f.bit

/-- The flag that bit `k` of FLAGS holds under a direction: ADESC.DIR selects the set (R32 to R34). -/
def flagAt : Direction → Fin 8 → FlagName
  | .control, k => .control (match k with
    | 0 => .iParEN | 1 => .oAReq | 2 => .rConsNr | 3 => .useTO2
    | 4 => .activateFV | 5 => .toggleH | 6 => .chFAck | 7 => .loopcheck)
  | .status, k => .status (match k with
    | 0 => .iParOK | 1 => .deviceFaultOrChFAckReq | 2 => .ceCRC | 3 => .wdTimeout
    | 4 => .fvActivated | 5 => .toggleD | 6 => .consNrR | 7 => .reserved)

/-- The value of a named flag in a flag byte. -/
def flagValue (flags : Byte) (f : FlagName) : Bool := flags.getLsbD f.bit

end Sys2Proof.Machine
end

