-- ==== Sys2Proof/Config.lean ====
section
/-! DEFINITION. The two parameters the spec leaves OPEN: NAMED_TABLE (spec/00_scope.md R8) and SSC_BASE
(spec/20_memory.md R62). Both rest on constants without a body, so no proof can lean on a value of them. -/

namespace Sys2Proof.Config

/-- The most entries NAMED_TABLE can have (R8: 0 <= N <= 256). -/
def maxNames : Nat := 256

/-- What an integrator supplies for NAMED_TABLE. Opaque: the spec gives no entry (log 4). -/
opaque rawNamedTable : List Half

/-- A supplied list brought into the form R8 asks for: at most 256 entries, all ids distinct. A list that already has
that form is left as it is, so every table R8 admits is a possible value. -/
def normaliseTable (t : List Half) : List Half := (t.take maxNames).dedup

/-- NAMED_TABLE as the block is built (R8, R20): entry k holds the id of name index k. -/
def namedTable : List Half := normaliseTable rawNamedTable

/-- SSC_BASE, the system address of the register window (R62). Opaque: the platform chooses it (log 5). -/
opaque sscBase : Nat

/-- The host's system address of block offset `a` (R62). -/
def systemAddress (a : Addr) : Nat := sscBase + a.toNat

end Sys2Proof.Config
end

