-- ==== Sys2Proof/Machine/Bus.lean ====
section
/-! DEFINITION. The register window (spec/10_state.md R21, R47; spec/20_memory.md R60) as names and addresses, and what
crosses the host bus: accesses, resets and completed transactions (spec/30_encoding.md R87; spec/70_reset_and_hazards.md
R250). -/

namespace Sys2Proof.Machine

/-- What one address of the window holds, under the names of R21; `reserved` is an address of R47. -/
inductive RegName where
  | cmd | status | errAcc | desc | adesc | flags | flen | cons
  | crc3 | crc2 | crc1 | crc0
  | fidH | fidL | cls | nidx | rcls | rargH | rargL | foutH | foutL | rhit
  /-- DATA[i], R45. -/
  | data (i : Fin 13)
  /-- FRAME[i], R46. -/
  | frame (i : Fin 18)
  | reserved
  deriving DecidableEq, Repr

/-- The access column of R21. -/
inductive AccessKind where
  /-- CMD: a write issues a command, a read returns 0x00 (R25). -/
  | writeOnly
  /-- A host write is refused (R173). -/
  | readOnly
  /-- A host write stores the byte, less its reserved bits (R23, R175). -/
  | readWrite
  /-- ERRACC: a 1 written clears the bit (R27). -/
  | writeOneToClear
  /-- Every access is refused (R174). -/
  | reserved
  deriving DecidableEq, Repr

/-- The address decode of the block: what offset `a` holds (R21, R47). -/
def locate (a : Addr) : RegName :=
  match a.toNat with
  | 0x00 => .cmd
  | 0x01 => .status
  | 0x02 => .errAcc
  | 0x04 => .desc
  | 0x05 => .adesc
  | 0x06 => .flags
  | 0x07 => .flen
  | 0x08 => .cons
  | 0x0C => .crc3
  | 0x0D => .crc2
  | 0x0E => .crc1
  | 0x0F => .crc0
  | 0x10 => .fidH
  | 0x11 => .fidL
  | 0x12 => .cls
  | 0x13 => .nidx
  | 0x14 => .rcls
  | 0x16 => .rargH
  | 0x17 => .rargL
  | 0x18 => .foutH
  | 0x19 => .foutL
  | 0x1A => .rhit
  | n =>
    if h : 0x20 ≤ n ∧ n ≤ 0x2C then .data ⟨n - 0x20, by omega⟩
    else if h : 0x40 ≤ n ∧ n ≤ 0x51 then .frame ⟨n - 0x40, by omega⟩
    else .reserved

/-- The address column of R21: where a named register stands. `reserved` is no register and has no address of its own. -/
def RegName.address : RegName → Option Addr
  | .cmd => some 0x00
  | .status => some 0x01
  | .errAcc => some 0x02
  | .desc => some 0x04
  | .adesc => some 0x05
  | .flags => some 0x06
  | .flen => some 0x07
  | .cons => some 0x08
  | .crc3 => some 0x0C
  | .crc2 => some 0x0D
  | .crc1 => some 0x0E
  | .crc0 => some 0x0F
  | .fidH => some 0x10
  | .fidL => some 0x11
  | .cls => some 0x12
  | .nidx => some 0x13
  | .rcls => some 0x14
  | .rargH => some 0x16
  | .rargL => some 0x17
  | .foutH => some 0x18
  | .foutL => some 0x19
  | .rhit => some 0x1A
  | .data i => some (BitVec.ofNat 7 (0x20 + i.val))
  | .frame i => some (BitVec.ofNat 7 (0x40 + i.val))
  | .reserved => none

/-- The access column of R21. -/
def RegName.access : RegName → AccessKind
  | .cmd => .writeOnly
  | .errAcc => .writeOneToClear
  | .status | .adesc | .cons | .cls | .nidx | .foutH | .foutL | .rhit => .readOnly
  | .desc | .flags | .flen | .crc3 | .crc2 | .crc1 | .crc0 | .fidH | .fidL | .rcls | .rargH | .rargL => .readWrite
  | .data _ | .frame _ => .readWrite
  | .reserved => .reserved

/-- Something the host side does to the block: a one-byte access (R67, R87) or a reset (R250). -/
inductive HostEvent where
  /-- MemRead(a, 1), R170. -/
  | read (a : Addr)
  /-- MemWrite(a, 1, v), R171. -/
  | write (a : Addr) (v : Byte)
  /-- The reset event, which can stand between any two accesses, R250. -/
  | reset
  deriving DecidableEq, Repr

/-- The direction of a bus transaction, R87: `R` or `W`. -/
inductive BusDir where
  | R | W
  deriving DecidableEq, Repr

/-- A completed bus transaction (dir, addr, data), R87: data is the byte written, or the byte read back. -/
structure Transaction where
  dir : BusDir
  addr : Addr
  data : Byte
  deriving DecidableEq, Repr

end Sys2Proof.Machine
end

