-- ==== Sys2Proof/Machine/State.lean ====
section
/-! DEFINITION. The state of the block (spec/10_state.md R20 to R50), its build-time table, the host's side of the bus,
and the state after reset (spec/70_reset_and_hazards.md R250). -/

namespace Sys2Proof.Machine

/-- Why a step could stop with a fault. The block has no trap (spec/60_exceptions.md R205), no access of it faults
(spec/20_memory.md R72) and no error of it is fatal (R209), so there is no reason and nothing raises one: safe. -/
inductive Fault where
  deriving DecidableEq, Repr

/-- Why a step could be refused. -/
inductive Refusal where
  /-- An instruction without a meaning in this model, by its mnemonic. Raised only by an arm of `exec` that has no
  meaning; no arm is left in that form. Safe. -/
  | notModelled (mnemonic : String)
  deriving DecidableEq, Repr

/-- The machine. The fields down to `frame` are the block's registers and buffers, and nothing else is the block's state
(R20, R50). A register wider than a byte is stored once and read or written by its bytes (R63). -/
structure State where
  /-- STATUS, R26: ERR [2:0]. -/
  status : Byte
  /-- ERRACC, R27: INVDESC 1, TRUNC 2, ILLCMD 3, BADACC 5. -/
  errAcc : Byte
  /-- DESC, the staged descriptor, R30: DIR 0, SEED 1, DLEN [7:4]. -/
  desc : Byte
  /-- ADESC, the active descriptor, R31: DIR 0, SEED 1, VALID 3, DLEN [7:4]. -/
  adesc : Byte
  /-- FLAGS, the safety flag byte, R32. -/
  flags : Byte
  /-- FLEN, the wire-side byte count, R35. -/
  flen : Byte
  /-- CONS, the bytes produced or consumed, R36. -/
  cons : Byte
  /-- CRC, carried and never computed, R37. -/
  crc : Quad
  /-- FID_IN, the identifier CLASSIFY reads, R39. -/
  fidIn : Half
  /-- CLS, the classification result, R38: TAG [2:0], RTCDISP 3. -/
  cls : Byte
  /-- NIDX, the name index of a NamedFrame result, R40. -/
  nidx : Byte
  /-- RCLS, the class tag RESOLVE reads, R41: TAG [2:0]. -/
  rcls : Byte
  /-- RARG, RESOLVE's argument, R42. -/
  rarg : Half
  /-- FOUT, the identifier RESOLVE produced, R43. -/
  fout : Half
  /-- RHIT, R44: HIT 0. -/
  rhit : Byte
  /-- DATA[0..12], R45. -/
  data : Vector Byte 13
  /-- FRAME[0..17], R46. -/
  frame : Vector Byte 18
  /-- NAMED_TABLE, fixed when the block is built (R8, R20); no step changes it (log 4). -/
  namedTable : List Half
  /-- The model's own field: what the host has yet to issue, the next first (R9, R70; log 1). -/
  pending : List HostEvent
  /-- The model's own field: the completed transactions, the latest first (R87; log 1). -/
  busLog : List Transaction
  deriving DecidableEq, Repr

/-- Right after reset: R250's value in every register and buffer byte, the table as built (R251), and no host access
waiting or done (log 3). -/
def State.reset : State where
  status := 0x00
  errAcc := 0x00
  desc := 0x00
  adesc := 0x00
  flags := 0x00
  flen := 0x00
  cons := 0x00
  crc := 0x00000000
  fidIn := 0x0000
  cls := 0x00
  nidx := 0x00
  rcls := 0x00
  rarg := 0x0000
  fout := 0x0000
  rhit := 0x00
  data := Vector.replicate 13 0x00
  frame := Vector.replicate 18 0x00
  namedTable := Config.namedTable
  pending := []
  busLog := []

end Sys2Proof.Machine
end

