-- ==== Sys2Proof/Machine/Ops.lean ====
section
/-! DEFINITION. The operations every access and command is built from: ending a command with success or with an error
(spec/60_exceptions.md R201), a refused access (R210), the byte at an address and its write (spec/42_control.md R170,
R171), and the reset event (spec/70_reset_and_hazards.md R250). -/

namespace Sys2Proof.Machine

/-! ## The end of a command -/

/-- `STATUS.ERR <- 0`, the last write of a command that succeeds. -/
def State.succeed (s : State) : State := { s with status := setErr s.status 0 }

/-- `raise CmdError(e)` (R201): the block's only exception entry. It takes no trap and moves no control (R205); the
command that raises it writes nothing further, so a meaning raises it on the state it was given. -/
def State.raise (s : State) (e : CmdError) : State :=
  { s with status := setErr s.status e.code, errAcc := recordError s.errAcc e.code }

/-- A refused host access (R173, R174, R210): BADACC is recorded, STATUS is not written. -/
def State.badAccess (s : State) : State := { s with errAcc := recordBadAccess s.errAcc }

/-! ## The byte at an address -/

/-- The byte a host read of the register gives: reserved bits read as 0, CMD and reserved addresses read as 0x00
(R170, R25, R174). -/
def State.readReg (s : State) : RegName → Byte
  | .cmd => 0x00
  | .status => s.status &&& 0x07#8
  | .errAcc => s.errAcc &&& 0x2E#8
  | .desc => s.desc &&& 0xF3#8
  | .adesc => s.adesc &&& 0xFB#8
  | .flags => s.flags
  | .flen => s.flen
  | .cons => s.cons
  | .crc3 => crcByte3 s.crc
  | .crc2 => crcByte2 s.crc
  | .crc1 => crcByte1 s.crc
  | .crc0 => crcByte0 s.crc
  | .fidH => highByte s.fidIn
  | .fidL => lowByte s.fidIn
  | .cls => s.cls &&& 0x0F#8
  | .nidx => s.nidx
  | .rcls => s.rcls &&& 0x07#8
  | .rargH => highByte s.rarg
  | .rargL => lowByte s.rarg
  | .foutH => highByte s.fout
  | .foutL => lowByte s.fout
  | .rhit => s.rhit &&& 0x01#8
  | .data i => s.data[i]
  | .frame i => s.frame[i]
  | .reserved => 0x00

/-- The byte at offset `a` of the window, without the side effect a read of a reserved address has. -/
def State.byteOf (s : State) (a : Addr) : Byte := s.readReg (locate a)

/-- What a host write of `v` to a register other than CMD does (R171). CMD stores nothing (R25): its write is a command,
which the host port issues. -/
def State.writeReg (s : State) (v : Byte) : RegName → State
  | .cmd => s
  | .status => s.badAccess
  | .errAcc => { s with errAcc := clearErrors s.errAcc v }
  | .desc => { s with desc := v &&& 0xF3#8 }
  | .adesc => s.badAccess
  | .flags => { s with flags := v }
  | .flen => { s with flen := v }
  | .cons => s.badAccess
  | .crc3 => { s with crc := joinCrc v (crcByte2 s.crc) (crcByte1 s.crc) (crcByte0 s.crc) }
  | .crc2 => { s with crc := joinCrc (crcByte3 s.crc) v (crcByte1 s.crc) (crcByte0 s.crc) }
  | .crc1 => { s with crc := joinCrc (crcByte3 s.crc) (crcByte2 s.crc) v (crcByte0 s.crc) }
  | .crc0 => { s with crc := joinCrc (crcByte3 s.crc) (crcByte2 s.crc) (crcByte1 s.crc) v }
  | .fidH => { s with fidIn := joinBytes v (lowByte s.fidIn) }
  | .fidL => { s with fidIn := joinBytes (highByte s.fidIn) v }
  | .cls => s.badAccess
  | .nidx => s.badAccess
  | .rcls => { s with rcls := v &&& 0x07#8 }
  | .rargH => { s with rarg := joinBytes v (lowByte s.rarg) }
  | .rargL => { s with rarg := joinBytes (highByte s.rarg) v }
  | .foutH => s.badAccess
  | .foutL => s.badAccess
  | .rhit => s.badAccess
  | .data i => { s with data := s.data.set i v }
  | .frame i => { s with frame := s.frame.set i v }
  | .reserved => s.badAccess

/-! ## Reset -/

/-- The reset event (R250): every register and buffer byte takes its reset value. NAMED_TABLE is not changed (R251), and
the host's side of the bus is not the block's state (log 6). -/
def State.resetBlock (s : State) : State :=
  { State.reset with namedTable := s.namedTable, pending := s.pending, busLog := s.busLog }

/-! ## The host's side of the bus -/

/-- Record a completed transaction (R87). -/
def State.record (s : State) (t : Transaction) : State := { s with busLog := t :: s.busLog }

/-- The host has `events` yet to issue. -/
def State.withPending (s : State) (events : List HostEvent) : State := { s with pending := events }

/-- The completed transactions in the order they happened. -/
def State.transcript (s : State) : List Transaction := s.busLog.reverse

end Sys2Proof.Machine
end

