-- ==== Sys2Proof/Machine/Classifier.lean ====
section
/-! DEFINITION. The frame identifier classifier (spec/40_classifier.md): the range predicates, the classification and
resolve functions, the routing bit, and the commands CLASSIFY and RESOLVE. -/

namespace Sys2Proof.Machine

/-! ## Ranges (R101, half-open) and their bitwise decoders (R102) -/

/-- `0x0100 <= id < 0x1000`. -/
def inRtc3 (id : Half) : Bool := 0x0100 ≤ id.toNat && id.toNat < 0x1000

/-- `0x8000 <= id < 0xC000`. -/
def inRtc1 (id : Half) : Bool := 0x8000 ≤ id.toNat && id.toNat < 0xC000

/-- `0xC000 <= id < 0xFC00`. -/
def inUdp (id : Half) : Bool := 0xC000 ≤ id.toNat && id.toNat < 0xFC00

/-- `0xFF80 <= id < 0xFF90`. -/
def inFrag (id : Half) : Bool := 0xFF80 ≤ id.toNat && id.toNat < 0xFF90

/-- `id[15:12] == 0b0000 and id[11:8] != 0b0000`. -/
def bitsRtc3 (id : Half) : Bool := id.extractLsb' 12 4 == 0#4 && id.extractLsb' 8 4 != 0#4

/-- `id[15:14] == 0b10`. -/
def bitsRtc1 (id : Half) : Bool := id.extractLsb' 14 2 == 0b10#2

/-- `id[15:14] == 0b11 and id[13:10] != 0b1111`. -/
def bitsUdp (id : Half) : Bool := id.extractLsb' 14 2 == 0b11#2 && id.extractLsb' 10 4 != 0b1111#4

/-- `id[15:4] == 0xFF8`. -/
def bitsFrag (id : Half) : Bool := id.extractLsb' 4 12 == 0xFF8#12

/-! ## Classification -/

/-- The source's variant (R38). NONE is the reset state of CLS and no result of a classification. -/
inductive TransportClass where
  | namedFrame (idx : Byte)
  | rtClass1
  | rtClass3
  | rtClassUDP
  | fragmentation
  | raw (id : Half)
  deriving DecidableEq, Repr

/-- The tag code of R38. -/
def TransportClass.tag : TransportClass → BitVec 3
  | .namedFrame _ => 1
  | .rtClass1 => 2
  | .rtClass3 => 3
  | .rtClassUDP => 4
  | .fragmentation => 5
  | .raw _ => 6

/-- The name index CLASSIFY writes to NIDX: 0 for every result but NamedFrame (R40, R105). -/
def TransportClass.nameIndex : TransportClass → Byte
  | .namedFrame k => k
  | _ => 0

/-- The position of `id` in the table, if it stands there (R104): `named(id)` and `nidx(id)`. -/
def namedIndex (table : List Half) (id : Half) : Option Nat := table.findIdx? (· == id)

/-- The range tests in the order of R100, and Raw when none holds. -/
def classifyRange (id : Half) : TransportClass :=
  if inRtc3 id then .rtClass3
  else if inRtc1 id then .rtClass1
  else if inUdp id then .rtClassUDP
  else if inFrag id then .fragmentation
  else .raw id

/-- `classify(id)` over a named-frame table (R100, R105): the exact match first, then the ranges. -/
def classify (table : List Half) (id : Half) : TransportClass :=
  match namedIndex table id with
  | some k => .namedFrame (BitVec.ofNat 8 k)
  | none => classifyRange id

/-- `rtcdisp(id) = in_rtc1(id) or in_rtc3(id)` (R114), whatever the table holds (R116). -/
def rtcdisp (id : Half) : Bool := inRtc1 id || inRtc3 id

/-- `{0b0000, rtcdisp, tag}` (R110). -/
def clsByte (disp : Bool) (tag : BitVec 3) : Byte := 0b0000#4 ++ BitVec.ofBool disp ++ tag

/-- `CLS <- {0b0000, disp, tag}` and `NIDX <- k` for a class (R110). -/
def State.withClass (s : State) (disp : Bool) (c : TransportClass) : State :=
  { s with cls := clsByte disp c.tag, nidx := c.nameIndex }

/-- CLASSIFY (R110). -/
def execClassify (s : State) : Host.Outcome State Fault Refusal :=
  .next (s.withClass (rtcdisp s.fidIn) (classify s.namedTable s.fidIn)).succeed

/-! ## Resolve -/

/-- What RESOLVE gives for a tag and an argument (R120): the identifier, and whether the input was recognised. -/
def resolve (table : List Half) (tag : BitVec 3) (arg : Half) : Half × Bool :=
  match tag.toNat with
  | 1 => match table[arg.toNat]? with
    | some id => (id, true)
    | none => (arg, false)
  | 2 => (0x8000, true)
  | 3 => (0x0100, true)
  | 4 => (0xC000, true)
  | 5 => (0xFF80, true)
  | _ => (arg, false)

/-- `FOUT <- v` and `RHIT <- {0b0000000, h}` (R120). -/
def State.withResolved (s : State) (v : Half) (h : Bool) : State :=
  { s with fout := v, rhit := 0b0000000#7 ++ BitVec.ofBool h }

/-- RESOLVE (R120, R121). -/
def execResolve (s : State) : Host.Outcome State Fault Refusal :=
  let r := resolve s.namedTable (classOperand s.rcls) s.rarg
  .next (s.withResolved r.1 r.2).succeed

end Sys2Proof.Machine
end

