-- ==== Sys2Proof/Machine/Control.lean ====
section
/-! DEFINITION. NOP and the command bytes that decode to no command (spec/42_control.md R176, R177). Each ILLEGAL row of
the opcode table has a meaning of its own over the one shared entry `State.raise`. -/

namespace Sys2Proof.Machine

/-- NOP (R176). -/
def execNop (s : State) : Host.Outcome State Fault Refusal := .next s.succeed

/-- Bytes 0x06 and 0x07 (R177). -/
def execIllegalOp6to7 (s : State) : Host.Outcome State Fault Refusal := .next (s.raise .illegalCommand)

/-- Bytes 0x08 to 0x0F (R177). -/
def execIllegalOp8to15 (s : State) : Host.Outcome State Fault Refusal := .next (s.raise .illegalCommand)

/-- Bytes with RSV bit 4 set (R177). -/
def execIllegalRsvBit4 (s : State) : Host.Outcome State Fault Refusal := .next (s.raise .illegalCommand)

/-- Bytes whose lowest RSV bit is bit 5 (R177). -/
def execIllegalRsvBit5 (s : State) : Host.Outcome State Fault Refusal := .next (s.raise .illegalCommand)

/-- Bytes whose lowest RSV bit is bit 6 (R177). -/
def execIllegalRsvBit6 (s : State) : Host.Outcome State Fault Refusal := .next (s.raise .illegalCommand)

/-- Bytes whose lowest RSV bit is bit 7 (R177). -/
def execIllegalRsvBit7 (s : State) : Host.Outcome State Fault Refusal := .next (s.raise .illegalCommand)

end Sys2Proof.Machine
end

