-- ==== Sys2Proof/Machine/SafetyCodec.lean ====
section
/-! DEFINITION. The safety sub-frame codec (spec/41_safety_codec.md): LDDESC, ENCODE and DECODE. The CRC field is carried
and never computed or checked (spec/00_scope.md R5). -/

namespace Sys2Proof.Machine

/-! ## LDDESC -/

/-- `ADESC[3] <- 0`: VALID cleared, the other fields kept (R134). -/
def clearValid (adesc : Byte) : Byte := adesc &&& 0xF7#8

/-- `ADESC <- b`. -/
def State.withActive (s : State) (b : Byte) : State := { s with adesc := b }

/-- LDDESC (R131 to R134). -/
def execLddesc (s : State) : Host.Outcome State Fault Refusal :=
  let d := descriptorOf s.desc
  if d.inBounds then .next (s.withActive d.activeByte).succeed
  else .next ((s.withActive (clearValid s.adesc)).raise .invalidDescriptor)

/-! ## ENCODE -/

/-- The CRC field from buffer offset `at0` on, most significant byte first: four bytes of CRC under Seed, CRC[23:0] under
NoSeed (R65, R143). -/
def putCrc (mode : SeedMode) (crc : Quad) (at0 : Nat) (frame : Vector Byte 18) : Vector Byte 18 :=
  match mode with
  | .seed =>
    putByte (putByte (putByte (putByte frame at0 (crcByte3 crc)) (at0 + 1) (crcByte2 crc)) (at0 + 2) (crcByte1 crc))
      (at0 + 3) (crcByte0 crc)
  | .noSeed =>
    putByte (putByte (putByte frame at0 (crcByte2 crc)) (at0 + 1) (crcByte1 crc)) (at0 + 2) (crcByte0 crc)

/-- The byte moves of ENCODE (R140): the data bytes, the flag byte at D, the CRC field from D + 1. -/
def packFrame (d : Descriptor) (data : Vector Byte 13) (flags : Byte) (crc : Quad) (frame : Vector Byte 18) :
    Vector Byte 18 :=
  let n := d.dataLength
  putCrc d.seed crc (n + 1) (putByte (copyBytes data n frame) n flags)

/-- The byte moves of ENCODE into FRAME, FLEN <- L and CONS <- L (R142). -/
def State.packFields (s : State) (d : Descriptor) : State :=
  { s with
    frame := packFrame d s.data s.flags s.crc s.frame
    flen := BitVec.ofNat 8 d.frameLength
    cons := BitVec.ofNat 8 d.frameLength }

/-- ENCODE (R140 to R144). -/
def execEncode (s : State) : Host.Outcome State Fault Refusal :=
  if validBit s.adesc then .next (s.packFields (descriptorOf s.adesc)).succeed
  else .next (s.raise .invalidDescriptor)

/-! ## DECODE -/

/-- The CRC field read from buffer offset `at0` on (R150, R152). -/
def takeCrc (mode : SeedMode) (at0 : Nat) (frame : Vector Byte 18) : Quad :=
  match mode with
  | .seed => joinCrc (byteAt frame at0) (byteAt frame (at0 + 1)) (byteAt frame (at0 + 2)) (byteAt frame (at0 + 3))
  | .noSeed => joinCrc 0x00 (byteAt frame at0) (byteAt frame (at0 + 1)) (byteAt frame (at0 + 2))

/-- The byte moves of DECODE (R150) and CONS <- L (R153). -/
def State.unpackFields (s : State) (d : Descriptor) : State :=
  let n := d.dataLength
  { s with
    data := copyBytes s.frame n s.data
    flags := byteAt s.frame n
    crc := takeCrc d.seed (n + 1) s.frame
    cons := BitVec.ofNat 8 d.frameLength }

/-- DECODE (R150 to R155). -/
def execDecode (s : State) : Host.Outcome State Fault Refusal :=
  if validBit s.adesc then
    let d := descriptorOf s.adesc
    if s.flen.toNat < d.frameLength then .next (s.raise .truncatedFrame)
    else .next (s.unpackFields d).succeed
  else .next (s.raise .invalidDescriptor)

end Sys2Proof.Machine
end

