-- ==== Sys2Proof/Machine/Dispatch.lean ====
section
/-! DEFINITION. One arm per row of spec/opcode_table.json (spec/42_control.md R172: the command's rule runs to
completion). -/

namespace Sys2Proof.Machine

def exec (i : Instr) (s : State) : Host.Outcome State Fault Refusal :=
  match i with
  | .nop => Sys2Proof.Machine.execNop s
  | .classify => Sys2Proof.Machine.execClassify s
  | .resolve => Sys2Proof.Machine.execResolve s
  | .lddesc => Sys2Proof.Machine.execLddesc s
  | .encode => Sys2Proof.Machine.execEncode s
  | .decode => Sys2Proof.Machine.execDecode s
  | .illegalOp6to7 _ => Sys2Proof.Machine.execIllegalOp6to7 s
  | .illegalOp8to15 _ => Sys2Proof.Machine.execIllegalOp8to15 s
  | .illegalRsvBit4 _ => Sys2Proof.Machine.execIllegalRsvBit4 s
  | .illegalRsvBit5 _ => Sys2Proof.Machine.execIllegalRsvBit5 s
  | .illegalRsvBit6 _ => Sys2Proof.Machine.execIllegalRsvBit6 s
  | .illegalRsvBit7 _ => Sys2Proof.Machine.execIllegalRsvBit7 s

end Sys2Proof.Machine
end

