-- ==== Sys2Proof/Machine/HostPort.lean ====
section
/-! DEFINITION. The block's two primitive host operations and reset, each complete before the next (spec/42_control.md R170
to R175; spec/20_memory.md R68, R70). -/

namespace Sys2Proof.Machine

/-- MemRead(a, 1) (R170): the byte returned and the state after. Only a read of a reserved address has a side effect. -/
def memRead (a : Addr) (s : State) : Byte × State :=
  match locate a with
  | .reserved => (0x00, s.badAccess)
  | r => (s.readReg r, s)

/-- MemWrite(a, 1, v) (R171): a write to CMD decodes and runs the command in one atomic step (R172); every other write
stores, is refused or clears error bits. -/
def memWrite (a : Addr) (v : Byte) (s : State) : Host.Outcome State Fault Refusal :=
  match locate a with
  | .cmd => exec (decode v) s
  | r => .next (s.writeReg v r)

/-- A host read as a whole: the access, and the transaction (R, a, value) it leaves on the host's side (R87). -/
def hostRead (a : Addr) (s : State) : State :=
  let r := memRead a s
  r.2.record ⟨.R, a, r.1⟩

/-- A host write as a whole: the transaction (W, a, v), and the access (R87). -/
def hostWrite (a : Addr) (v : Byte) (s : State) : Host.Outcome State Fault Refusal :=
  memWrite a v (s.record ⟨.W, a, v⟩)

/-- What one event of the host's side does to the machine. -/
def runEvent (e : HostEvent) (s : State) : Host.Outcome State Fault Refusal :=
  match e with
  | .read a => .next (hostRead a s)
  | .write a v => hostWrite a v s
  | .reset => .next s.resetBlock

/-- Take the host's next event and run it (R70). With nothing waiting the block does nothing: it has no step of its own
(R9; log 2). -/
def runNext (s : State) : Host.Outcome State Fault Refusal :=
  match s.pending with
  | [] => .next s
  | e :: rest => runEvent e (s.withPending rest)

/-- Put the write of command byte `c` to CMD at the head of what the host issues. -/
def issueCommand (c : Byte) (s : State) : State := s.withPending (.write 0x00 c :: s.pending)

end Sys2Proof.Machine
end

