-- ==== Sys2Proof/Machine/Step.lean ====
section
/-! DEFINITION. One step of the machine: the next host access or reset, whole (spec/20_memory.md R68; spec/42_control.md
R172). -/

namespace Sys2Proof.Machine

/-- One step. -/
def step (s : State) : Host.Outcome State Fault Refusal := runNext s

/-- The state in which the very next step runs the command byte `w`. A command is a byte the host writes to CMD (R24,
R172; log 3), and every command has 8 bits (R80), so `nbits` decides nothing. -/
def State.withFetchWord (s : State) (_nbits w : Nat) : State := issueCommand (BitVec.ofNat 8 w) s

end Sys2Proof.Machine
end

