-- ==== Sys2Proof/Machine/HostProgram.lean ====
section
/-! DEFINITION. The host assembly syntax (spec/30_encoding.md R88) and the pseudo-instructions (R89), as their expansions
into host accesses, and how a program comes to wait at the bus (log 3). -/

namespace Sys2Proof.Machine

/-- The 16-bit registers `RD16` takes (R89): named by their high byte. -/
inductive WideReg where
  | fid | rarg | fout
  deriving DecidableEq, Repr

/-- A statement of the host syntax: R88's, then R89's pseudo-instructions. -/
inductive HostStmt where
  /-- `WR a, v`. -/
  | wr (a : Addr) (v : Byte)
  /-- `RD a`. -/
  | rd (a : Addr)
  /-- `RD a => v`: a read with the expected value as an annotation. -/
  | rdExpect (a : Addr) (v : Byte)
  /-- `NOP` to `DECODE`: `WR CMD, byte`. -/
  | command (i : Instr)
  | setFid (v : Half)
  | setRarg (v : Half)
  | setCrc (v : Quad)
  | setDesc (dir : Direction) (mode : SeedMode) (d : BitVec 4)
  | setRcls (t : BitVec 3)
  | clrErr
  | wrData (i : Fin 13) (v : Byte)
  | wrFrame (i : Fin 18) (v : Byte)
  | rd16 (r : WideReg)
  deriving DecidableEq, Repr

/-- `{d[3:0], 0b00, seed[0], dir[0]}`: the DESC byte of a descriptor (R89, R30). -/
def stagedByte (dir : Direction) (mode : SeedMode) (d : BitVec 4) : Byte := d ++ 0b00#2 ++ mode.toBit ++ dir.toBit

/-- The offset of a wide register's high byte; the low byte is at the next offset (R63). -/
def WideReg.highAddress : WideReg → Addr
  | .fid => 0x10
  | .rarg => 0x16
  | .fout => 0x18

/-- The accesses a statement stands for, in order (R88, R89). -/
def HostStmt.expand : HostStmt → List HostEvent
  | .wr a v => [.write a v]
  | .rd a => [.read a]
  | .rdExpect a _ => [.read a]
  | .command i => [.write 0x00 (encode i)]
  | .setFid v => [.write 0x10 (highByte v), .write 0x11 (lowByte v)]
  | .setRarg v => [.write 0x16 (highByte v), .write 0x17 (lowByte v)]
  | .setCrc v =>
    [.write 0x0C (crcByte3 v), .write 0x0D (crcByte2 v), .write 0x0E (crcByte1 v), .write 0x0F (crcByte0 v)]
  | .setDesc dir mode d => [.write 0x04 (stagedByte dir mode d)]
  | .setRcls t => [.write 0x14 (0b00000#5 ++ t)]
  | .clrErr => [.write 0x02 0x2E]
  | .wrData i v => [.write (BitVec.ofNat 7 (0x20 + i.val)) v]
  | .wrFrame i v => [.write (BitVec.ofNat 7 (0x40 + i.val)) v]
  | .rd16 r => [.read r.highAddress, .read (r.highAddress + 1)]

/-- The accesses of a whole program, in order (R88). -/
def assemble (p : List HostStmt) : List HostEvent := p.flatMap HostStmt.expand

/-- The annotation of a statement against the transaction it left (R88): the byte read is the byte expected. -/
def HostStmt.annotationHolds : HostStmt → List Transaction → Bool
  | .rdExpect a v, ts => ts == [⟨.R, a, v⟩]
  | _, _ => true

/-- The host has the program to issue, after whatever it has yet to issue (log 3). -/
def State.withProgram (s : State) (p : List HostStmt) : State := s.withPending (s.pending ++ assemble p)

end Sys2Proof.Machine
end

