-- ==== Sys2Proof/Safety.lean ====
section
/-! DEFINITION. What a state of this hardware can look like, and which accesses are refused, in the terms the
statements use. -/

namespace Sys2Proof.Machine

/-- A named-frame table as R8 allows it: at most 256 entries, all distinct. -/
def TableLegal (t : List Half) : Prop := t.length ≤ 256 ∧ t.Nodup

/-- The invariant of the machine: the reserved and hardwired bits hold 0, the codes that are never written do not occur
(93_implementation_defined.md U10), ADESC's fields pass the bound check, and the outputs are ones a command produces. -/
structure Legal (s : State) : Prop where
  /-- STATUS.ERR is one of the codes 0 to 3, and [7:3] are 0 (R26). -/
  status : s.status.toNat ≤ 3
  /-- Bits 0, 4, 6 and 7 of ERRACC are hardwired to 0 (R27). -/
  errAcc : s.errAcc &&& 0xD1#8 = 0
  /-- DESC[3:2] hold 0 (R30, R175). -/
  desc : s.desc &&& 0x0C#8 = 0
  /-- ADESC bit 2 holds 0 (R31). -/
  adescReserved : s.adesc &&& 0x04#8 = 0
  /-- ADESC's fields are those of the last valid descriptor or of reset, with VALID set or cleared (R134). -/
  adescBounds : (descriptorOf s.adesc).inBounds = true
  /-- CONS is a sub-frame length, or 0 before the first (R36, R136). -/
  cons : s.cons.toNat ≤ 18
  /-- CLS is NONE, or a class with the routing bit it can have (R38, R105, R114). -/
  cls : s.cls ∈ [0x00#8, 0x01#8, 0x09#8, 0x0A#8, 0x0B#8, 0x04#8, 0x05#8, 0x06#8]
  /-- NIDX is an index of the table under a NamedFrame result, and 0 under every other (R40). -/
  nidx : if s.cls.extractLsb' 0 3 = 1#3 then s.nidx.toNat < s.namedTable.length else s.nidx = 0
  /-- RCLS[7:3] hold 0 (R41, R175). -/
  rcls : s.rcls &&& 0xF8#8 = 0
  /-- RHIT[7:1] hold 0 (R44). -/
  rhit : s.rhit.toNat ≤ 1
  /-- The table the block is built with (R8). -/
  table : TableLegal s.namedTable

/-- No error and no refused access is on record (D14): every writable bit of ERRACC is 0. -/
def NoErrorRecorded (s : State) : Prop := s.errAcc &&& 0x2E#8 = 0

/-- The accesses the block refuses: any access to a reserved address (R174), a write to a read-only register (R173). -/
def HostEvent.refused : HostEvent → Bool
  | .read a => (locate a).access == .reserved
  | .write a _ => (locate a).access == .reserved || (locate a).access == .readOnly
  | .reset => false

/-- The table of R250: every register and buffer byte at its reset value. -/
structure AtResetValues (s : State) : Prop where
  status : s.status = 0x00#8
  errAcc : s.errAcc = 0x00#8
  desc : s.desc = 0x00#8
  adesc : s.adesc = 0x00#8
  flags : s.flags = 0x00#8
  flen : s.flen = 0x00#8
  cons : s.cons = 0x00#8
  crc : s.crc = 0x00000000#32
  fidIn : s.fidIn = 0x0000#16
  cls : s.cls = 0x00#8
  nidx : s.nidx = 0x00#8
  rcls : s.rcls = 0x00#8
  rarg : s.rarg = 0x0000#16
  fout : s.fout = 0x0000#16
  rhit : s.rhit = 0x00#8
  data : ∀ i : Fin 13, s.data[i] = 0x00#8
  frame : ∀ i : Fin 18, s.frame[i] = 0x00#8

end Sys2Proof.Machine
end

