-- ==== Sys2Proof/Certificates/Slice0/Obligations.lean ====
section
/-! DEFINITION. The statements for the provers. Registers are named by State's fields, bits are cut with extractLsb' and
getLsbD, and addresses are written as the spec's register map gives them, so that a statement does not repeat the
definition it is about. -/

open Sys2Proof Sys2Proof.Machine

/-! ## Encoding -/

/-- 30_encoding.md section 1: no bit of a command byte is dropped on the way from an instruction to its byte and back. -/
def Obligations.DecodeOfEncodeIsTheInstruction : Prop :=
  ∀ i : Instr, i.wellFormed = true → Sys2Proof.decode (Sys2Proof.encode i) = i

/-- 30_encoding.md section 1: every byte has one meaning, and that meaning's byte is the byte itself. -/
def Obligations.EncodeOfDecodeIsTheByte : Prop :=
  ∀ c : Byte, (Sys2Proof.decode c).wellFormed = true ∧ Sys2Proof.encode (Sys2Proof.decode c) = c

/-- R81: the decode of a command byte, case by case. -/
def Obligations.CommandByteDecodesByRsvAndOp : Prop :=
  ∀ c : Byte,
    (c.extractLsb' 4 4 ≠ 0#4 → (Sys2Proof.decode c).illegal = true) ∧
    (c.extractLsb' 4 4 = 0#4 →
      (c.extractLsb' 0 4 = 0x0#4 → Sys2Proof.decode c = .nop) ∧
      (c.extractLsb' 0 4 = 0x1#4 → Sys2Proof.decode c = .classify) ∧
      (c.extractLsb' 0 4 = 0x2#4 → Sys2Proof.decode c = .resolve) ∧
      (c.extractLsb' 0 4 = 0x3#4 → Sys2Proof.decode c = .lddesc) ∧
      (c.extractLsb' 0 4 = 0x4#4 → Sys2Proof.decode c = .encode) ∧
      (c.extractLsb' 0 4 = 0x5#4 → Sys2Proof.decode c = .decode) ∧
      (6 ≤ (c.extractLsb' 0 4).toNat → (Sys2Proof.decode c).illegal = true))

/-- 30_encoding.md section 1 and opcode_table.json: one byte of each row, written out bit by bit. -/
def Obligations.WrittenOutBytesDecode : Prop :=
  Sys2Proof.decode 0b00000000#8 = .nop ∧ Sys2Proof.decode 0b00000001#8 = .classify ∧
  Sys2Proof.decode 0b00000010#8 = .resolve ∧ Sys2Proof.decode 0b00000011#8 = .lddesc ∧
  Sys2Proof.decode 0b00000100#8 = .encode ∧ Sys2Proof.decode 0b00000101#8 = .decode ∧
  Sys2Proof.decode 0b00000111#8 = .illegalOp6to7 0x07 ∧ Sys2Proof.decode 0b00001000#8 = .illegalOp8to15 0x08 ∧
  Sys2Proof.decode 0b00010001#8 = .illegalRsvBit4 0x11 ∧ Sys2Proof.decode 0b11101111#8 = .illegalRsvBit5 0xEF ∧
  Sys2Proof.decode 0b11000000#8 = .illegalRsvBit6 0xC0 ∧ Sys2Proof.decode 0b10000100#8 = .illegalRsvBit7 0x84

/-- opcode_table.json: the byte of an instruction fits the pattern of its own row and of no other row. -/
def Obligations.EncodingFitsExactlyItsOwnTableRow : Prop :=
  ∀ i : Instr, i.wellFormed = true →
    ∀ r ∈ opcodeTable, (r.fits (Sys2Proof.encode i) = true ↔ r.mnemonic = i.mnemonic)

/-! ## A step is one host access -/

/-- 42_control.md section 1: a write of a command byte to CMD runs the decoded command in that one step. Around it stand
only the model's own fields of log 1: the access leaves `pending`, and its transaction enters `busLog`. -/
def Obligations.StepRunsTheDecodedCommand : Prop :=
  ∀ (s : State) (c : Byte) (rest : List HostEvent), s.pending = .write 0x00 c :: rest →
    step s = exec (Sys2Proof.decode c) { s with pending := rest, busLog := ⟨.W, 0x00, c⟩ :: s.busLog }

/-- Log 3 (the model's choice): the step after withFetchWord runs the command byte placed by it, and leaves what the host
had yet to issue waiting. -/
def Obligations.NextStepRunsTheFetchWord : Prop :=
  ∀ (s : State) (w : Nat), w < 256 →
    step (s.withFetchWord 8 w) =
      exec (Sys2Proof.decode (BitVec.ofNat 8 w)) { s with busLog := ⟨.W, 0x00, BitVec.ofNat 8 w⟩ :: s.busLog }

/-- 00_scope.md section 3 and log 2 (the model's reading): with no host access waiting, nothing changes. -/
def Obligations.NothingHappensWithoutAHostAccess : Prop :=
  ∀ s : State, s.pending = [] → step s = .next s

/-- 20_memory.md section 3 and 60_exceptions.md section 1: no access faults and no error is fatal, so every step from
every state answers a next state. That it takes exactly the first waiting event is the model's form of the order of
20_memory.md section 4 (R70), over the model's own field `pending` (log 1, the model's choice); that it answers with
`pending` empty is log 2 (the model's reading of R9). -/
def Obligations.EveryStepAnswersANextState : Prop :=
  ∀ s : State, ∃ t, step s = .next t ∧ t.pending = s.pending.tail

/-- 30_encoding.md section 4: the transaction a read leaves carries the byte read, and a write leaves the byte written.
The log itself is the model's field (log 1). -/
def Obligations.TransactionsCarryTheBytes : Prop :=
  ∀ (s : State) (a : Addr) (rest : List HostEvent),
    (s.pending = .read a :: rest →
      ∃ t, step s = .next t ∧ t.busLog = ⟨.R, a, (memRead a s).1⟩ :: s.busLog ∧ t.pending = rest) ∧
    (∀ v : Byte, s.pending = .write a v :: rest →
      ∃ t, step s = .next t ∧ t.busLog = ⟨.W, a, v⟩ :: s.busLog ∧ t.pending = rest)

/-! ## The register window -/

/-- R21 (10_state.md section 1): every register of the map stands at its address, and no two at one address. -/
def Obligations.RegisterMapIsOneToOne : Prop :=
  (∀ (r : RegName) (a : Addr), r.address = some a → locate a = r) ∧
  (∀ a : Addr, locate a ≠ .reserved → (locate a).address = some a)

/-- R170: the byte a host read returns at each address, and that only a read of a reserved address changes state. -/
def Obligations.HostReadReturnsTheByteOfTheMap : Prop :=
  ∀ s : State,
    memRead 0x00 s = (0x00, s) ∧
    memRead 0x01 s = (s.status &&& 0x07#8, s) ∧
    memRead 0x02 s = (s.errAcc &&& 0x2E#8, s) ∧
    memRead 0x04 s = (s.desc &&& 0xF3#8, s) ∧
    memRead 0x05 s = (s.adesc &&& 0xFB#8, s) ∧
    memRead 0x06 s = (s.flags, s) ∧
    memRead 0x07 s = (s.flen, s) ∧
    memRead 0x08 s = (s.cons, s) ∧
    memRead 0x0C s = (s.crc.extractLsb' 24 8, s) ∧
    memRead 0x0D s = (s.crc.extractLsb' 16 8, s) ∧
    memRead 0x0E s = (s.crc.extractLsb' 8 8, s) ∧
    memRead 0x0F s = (s.crc.extractLsb' 0 8, s) ∧
    memRead 0x10 s = (s.fidIn.extractLsb' 8 8, s) ∧
    memRead 0x11 s = (s.fidIn.extractLsb' 0 8, s) ∧
    memRead 0x12 s = (s.cls &&& 0x0F#8, s) ∧
    memRead 0x13 s = (s.nidx, s) ∧
    memRead 0x14 s = (s.rcls &&& 0x07#8, s) ∧
    memRead 0x16 s = (s.rarg.extractLsb' 8 8, s) ∧
    memRead 0x17 s = (s.rarg.extractLsb' 0 8, s) ∧
    memRead 0x18 s = (s.fout.extractLsb' 8 8, s) ∧
    memRead 0x19 s = (s.fout.extractLsb' 0 8, s) ∧
    memRead 0x1A s = (s.rhit &&& 0x01#8, s) ∧
    (∀ i : Fin 13, memRead (0x20 + BitVec.ofNat 7 i.val) s = (s.data[i], s)) ∧
    (∀ i : Fin 18, memRead (0x40 + BitVec.ofNat 7 i.val) s = (s.frame[i], s)) ∧
    (∀ a : Addr, locate a = .reserved → memRead a s = (0x00, { s with errAcc := s.errAcc ||| 0x20#8 }))

/-- R171: what a host write stores, address by address, and that no write but one to CMD changes STATUS. -/
def Obligations.HostWriteFollowsTheMap : Prop :=
  ∀ (s : State) (v : Byte),
    memWrite 0x00 v s = exec (Sys2Proof.decode v) s ∧
    memWrite 0x02 v s = .next { s with errAcc := s.errAcc &&& ~~~(v &&& 0x2E#8) } ∧
    memWrite 0x04 v s = .next { s with desc := v &&& 0xF3#8 } ∧
    memWrite 0x14 v s = .next { s with rcls := v &&& 0x07#8 } ∧
    memWrite 0x06 v s = .next { s with flags := v } ∧
    memWrite 0x07 v s = .next { s with flen := v } ∧
    memWrite 0x0C v s = .next { s with crc := v ++ s.crc.extractLsb' 0 24 } ∧
    memWrite 0x0D v s = .next { s with crc := s.crc.extractLsb' 24 8 ++ v ++ s.crc.extractLsb' 0 16 } ∧
    memWrite 0x0E v s = .next { s with crc := s.crc.extractLsb' 16 16 ++ v ++ s.crc.extractLsb' 0 8 } ∧
    memWrite 0x0F v s = .next { s with crc := s.crc.extractLsb' 8 24 ++ v } ∧
    memWrite 0x10 v s = .next { s with fidIn := v ++ s.fidIn.extractLsb' 0 8 } ∧
    memWrite 0x11 v s = .next { s with fidIn := s.fidIn.extractLsb' 8 8 ++ v } ∧
    memWrite 0x16 v s = .next { s with rarg := v ++ s.rarg.extractLsb' 0 8 } ∧
    memWrite 0x17 v s = .next { s with rarg := s.rarg.extractLsb' 8 8 ++ v } ∧
    (∀ i : Fin 13, memWrite (0x20 + BitVec.ofNat 7 i.val) v s = .next { s with data := s.data.set i v }) ∧
    (∀ i : Fin 18, memWrite (0x40 + BitVec.ofNat 7 i.val) v s = .next { s with frame := s.frame.set i v }) ∧
    (∀ a : Addr, a ∈ [0x01#7, 0x05#7, 0x08#7, 0x12#7, 0x13#7, 0x18#7, 0x19#7, 0x1A#7] ∨ locate a = .reserved →
      memWrite a v s = .next { s with errAcc := s.errAcc ||| 0x20#8 })

/-- 10_state.md section 1 and 20_memory.md section 4: a byte written to a read/write register without reserved bits is
read back, and the byte at every other address, the table and the model's own fields `pending` and `busLog` (log 1) stay as
they were. -/
def Obligations.WrittenByteIsReadBackAndNothingElseMoves : Prop :=
  ∀ (s : State) (a : Addr) (v : Byte),
    a ∈ [0x06#7, 0x07#7, 0x0C#7, 0x0D#7, 0x0E#7, 0x0F#7, 0x10#7, 0x11#7, 0x16#7, 0x17#7] ∨
      (0x20 ≤ a.toNat ∧ a.toNat ≤ 0x2C) ∨ (0x40 ≤ a.toNat ∧ a.toNat ≤ 0x51) →
    ∃ t, memWrite a v s = .next t ∧ (memRead a t).1 = v ∧ (∀ b : Addr, b ≠ a → (memRead b t).1 = (memRead b s).1) ∧
      t.namedTable = s.namedTable ∧ t.pending = s.pending ∧ t.busLog = s.busLog

/-- R175: DESC[3:2] and RCLS[7:3] are write-any-read-zero, and no access error is raised. -/
def Obligations.ReservedBitsAreWriteAnyReadZero : Prop :=
  ∀ (s : State) (v : Byte),
    (∃ t, memWrite 0x04 v s = .next t ∧ t = { s with desc := t.desc } ∧ t.desc.extractLsb' 2 2 = 0#2 ∧
      t.desc.extractLsb' 0 2 = v.extractLsb' 0 2 ∧ t.desc.extractLsb' 4 4 = v.extractLsb' 4 4) ∧
    (∃ t, memWrite 0x14 v s = .next t ∧ t = { s with rcls := t.rcls } ∧ t.rcls.extractLsb' 3 5 = 0#5 ∧
      t.rcls.extractLsb' 0 3 = v.extractLsb' 0 3) ∧
    (memRead 0x04 s).1.extractLsb' 2 2 = 0#2 ∧ (memRead 0x04 s).2 = s ∧
    (memRead 0x14 s).1.extractLsb' 3 5 = 0#5 ∧ (memRead 0x14 s).2 = s

/-- R173: a host write to a read-only register keeps its value and every other state, records BADACC and completes. -/
def Obligations.WriteToReadOnlyRegisterIsRefused : Prop :=
  ∀ (s : State) (v : Byte) (a : Addr), a ∈ [0x01#7, 0x05#7, 0x08#7, 0x12#7, 0x13#7, 0x18#7, 0x19#7, 0x1A#7] →
    memWrite a v s = .next { s with errAcc := s.errAcc ||| 0x20#8 }

/-- R174, with the reserved addresses of R47: a read returns 0x00, a write is discarded, and only BADACC is set. -/
def Obligations.AccessToReservedAddressIsRefused : Prop :=
  ∀ (s : State) (v : Byte) (a : Addr),
    a.toNat = 0x03 ∨ (0x09 ≤ a.toNat ∧ a.toNat ≤ 0x0B) ∨ a.toNat = 0x15 ∨ (0x1B ≤ a.toNat ∧ a.toNat ≤ 0x1F) ∨
      (0x2D ≤ a.toNat ∧ a.toNat ≤ 0x3F) ∨ (0x52 ≤ a.toNat ∧ a.toNat ≤ 0x7F) →
    memRead a s = (0x00, { s with errAcc := s.errAcc ||| 0x20#8 }) ∧
    memWrite a v s = .next { s with errAcc := s.errAcc ||| 0x20#8 }

/-- R25: a write to CMD issues the command and is not stored; a read of CMD returns 0x00 and does nothing. -/
def Obligations.CmdIssuesAndReadsZero : Prop :=
  ∀ (s : State) (c : Byte),
    memWrite 0x00 c s = exec (Sys2Proof.decode c) s ∧ memRead 0x00 s = (0x00, s) ∧
    ∀ t, exec (Sys2Proof.decode c) s = .next t → memRead 0x00 t = (0x00, t)

/-- 10_state.md section 2 (R27): a 1 written to ERRACC clears that writable bit, a 0 keeps it, and nothing else moves. -/
def Obligations.ErrAccClearsTheBitsWrittenAsOne : Prop :=
  ∀ (s : State) (v : Byte), ∃ t, memWrite 0x02 v s = .next t ∧ t = { s with errAcc := t.errAcc } ∧
    ∀ k : Nat, k < 8 →
      t.errAcc.getLsbD k = (s.errAcc.getLsbD k && !(v.getLsbD k && (k == 1 || k == 2 || k == 3 || k == 5)))

/-- 60_exceptions.md section 1 (R210): BADACC becomes set only by an access the block refuses. -/
def Obligations.BadAccessIsSetOnlyByARefusedAccess : Prop :=
  ∀ s t : State, step s = .next t → s.errAcc.getLsbD 5 = false → t.errAcc.getLsbD 5 = true →
    ∃ e rest, s.pending = e :: rest ∧ e.refused = true

/-- 60_exceptions.md section 1 (R210), 42_control.md section 1: a refused access records BADACC and writes nothing else
of the block. `pending` and `busLog` are the model's fields (log 1). -/
def Obligations.RefusedAccessOnlyRecordsBadAccess : Prop :=
  ∀ (s : State) (e : HostEvent) (rest : List HostEvent), s.pending = e :: rest → e.refused = true →
    ∃ t, step s = .next t ∧ t = { s with errAcc := s.errAcc ||| 0x20#8, pending := rest, busLog := t.busLog }

/-- The last line of R171 with 10_state.md section 2: STATUS changes only by a command or by reset. -/
def Obligations.StatusChangesOnlyByACommandOrReset : Prop :=
  ∀ s t : State, step s = .next t → t.status ≠ s.status →
    (∃ c rest, s.pending = .write 0x00 c :: rest) ∨ ∃ rest, s.pending = .reset :: rest

/-! ## Reset -/

/-- R250 and R251: after reset, and after a reset event in any state, every register and buffer byte has its reset value;
the reset event leaves NAMED_TABLE as it was. -/
def Obligations.ResetPutsEveryRegisterAtItsValue : Prop :=
  AtResetValues State.reset ∧
  ∀ (s : State) (rest : List HostEvent), s.pending = .reset :: rest →
    ∃ t, step s = .next t ∧ AtResetValues t ∧ t.namedTable = s.namedTable

/-- Log 6 (the model's choice): a reset is an event of its own, which leaves the host's later accesses waiting and the
transactions already done on the log. -/
def Obligations.ResetLeavesTheHostSide : Prop :=
  ∀ (s : State) (rest : List HostEvent), s.pending = .reset :: rest →
    ∃ t, step s = .next t ∧ t.pending = rest ∧ t.busLog = s.busLog

/-- 70_reset_and_hazards.md section 1: the state after reset is a legal one. -/
def Obligations.ResetStateIsLegal : Prop := Legal State.reset

/-! ## Invariants and whole-machine rules -/

/-- 10_state.md sections 2 to 5, 93_implementation_defined.md U10: from every legal state, a step leads to a legal state.
Reserved bits stay 0, no unwritten code appears, ADESC passes the bound check, NIDX is an index of the table. -/
def Obligations.EveryStepKeepsTheStateLegal : Prop :=
  ∀ s t : State, Legal s → step s = .next t → Legal t

/-- 10_state.md section 1 (R20): no access, command or reset changes NAMED_TABLE. -/
def Obligations.NoStepChangesTheNamedTable : Prop :=
  ∀ s t : State, step s = .next t → t.namedTable = s.namedTable

/-- 30_encoding.md section 1 (the table of R82): each register is changed by the commands that list it, and by no other.
`pending` and `busLog`, which no command changes either, are the model's own fields (log 1). -/
def Obligations.CommandsChangeOnlyTheRegistersTheyList : Prop :=
  ∀ (i : Instr) (s t : State), exec i s = .next t →
    (t.adesc ≠ s.adesc → i = .lddesc) ∧
    (t.cls ≠ s.cls ∨ t.nidx ≠ s.nidx → i = .classify) ∧
    (t.fout ≠ s.fout ∨ t.rhit ≠ s.rhit → i = .resolve) ∧
    (t.frame ≠ s.frame ∨ t.flen ≠ s.flen → i = .encode) ∧
    (t.data ≠ s.data ∨ t.flags ≠ s.flags ∨ t.crc ≠ s.crc → i = .decode) ∧
    (t.cons ≠ s.cons → i = .encode ∨ i = .decode) ∧
    t.desc = s.desc ∧ t.fidIn = s.fidIn ∧ t.rcls = s.rcls ∧ t.rarg = s.rarg ∧
    t.namedTable = s.namedTable ∧ t.pending = s.pending ∧ t.busLog = s.busLog

/-- 10_state.md section 3 (R31): only an LDDESC command or a reset changes ADESC; no host write to DESC does. -/
def Obligations.OnlyLddescOrResetChangesTheActiveDescriptor : Prop :=
  ∀ s t : State, step s = .next t → t.adesc ≠ s.adesc →
    (∃ rest, s.pending = .write 0x00 0x03 :: rest) ∨ ∃ rest, s.pending = .reset :: rest

/-- R203: a command that reports an error changes STATUS and ERRACC and nothing else, but for a failed LDDESC, which also
clears ADESC.VALID. -/
def Obligations.FailedCommandLeavesNoPartialResult : Prop :=
  ∀ (i : Instr) (s t : State), exec i s = .next t → t.status.extractLsb' 0 3 ≠ 0#3 →
    t = { s with status := t.status, errAcc := t.errAcc,
                 adesc := if i = .lddesc then s.adesc &&& 0xF7#8 else s.adesc }

/-- 60_exceptions.md section 1 (R200, R201, R204, R208): a command leaves one code from 0 to 3 in STATUS.ERR and no other
change of STATUS; code 0 touches no bit of ERRACC, another code sets exactly the bit of its own number. -/
def Obligations.CommandReportsOneCodeAndSetsItsBit : Prop :=
  ∀ (i : Instr) (s t : State), exec i s = .next t →
    (t.status.extractLsb' 0 3).toNat ≤ 3 ∧ t.status.extractLsb' 3 5 = s.status.extractLsb' 3 5 ∧
    (t.status.extractLsb' 0 3 = 0#3 → t.errAcc = s.errAcc) ∧
    (t.status.extractLsb' 0 3 ≠ 0#3 → ∀ k : Nat, k < 8 →
      t.errAcc.getLsbD k = (s.errAcc.getLsbD k || k == (t.status.extractLsb' 0 3).toNat))

/-- 60_exceptions.md section 2 (R206): an ERRACC bit goes from 1 to 0 only by a host write of 1 to it, or by reset. -/
def Obligations.ErrorBitsAreSticky : Prop :=
  ∀ (s t : State) (k : Nat), step s = .next t → s.errAcc.getLsbD k = true → t.errAcc.getLsbD k = false →
    (∃ v rest, s.pending = .write 0x02 v :: rest ∧ v.getLsbD k = true) ∨ ∃ rest, s.pending = .reset :: rest

/-! ## NOP and illegal commands -/

/-- R176: NOP clears STATUS.ERR and nothing else. -/
def Obligations.NopClearsTheErrorCodeOnly : Prop :=
  Sys2Proof.decode 0x00 = .nop ∧ ∀ s : State, exec .nop s = .next { s with status := s.status &&& 0xF8#8 }

/-- R177 and R85: every byte from 0x06 on, and every instruction of the six ILLEGAL rows, sets STATUS.ERR = 3 and
ERRACC.ILLCMD, and changes nothing else. -/
def Obligations.IllegalCommandRecordsCodeThree : Prop :=
  ∀ (s : State) (c : Byte),
    let t : State := { s with status := (s.status &&& 0xF8#8) ||| 0x03#8, errAcc := s.errAcc ||| 0x08#8 }
    (6 ≤ c.toNat → memWrite 0x00 c s = .next t) ∧
    exec (.illegalOp6to7 c) s = .next t ∧ exec (.illegalOp8to15 c) s = .next t ∧
    exec (.illegalRsvBit4 c) s = .next t ∧ exec (.illegalRsvBit5 c) s = .next t ∧
    exec (.illegalRsvBit6 c) s = .next t ∧ exec (.illegalRsvBit7 c) s = .next t

/-! ## The classifier -/

/-- 40_classifier.md section 1 (R102): the bitwise range decoders equal the numeric ranges on all 65536 identifiers. -/
def Obligations.BitwiseDecodersEqualTheRanges : Prop :=
  ∀ id : Half,
    (bitsRtc3 id = true ↔ 0x0100 ≤ id.toNat ∧ id.toNat < 0x1000) ∧
    (bitsRtc1 id = true ↔ 0x8000 ≤ id.toNat ∧ id.toNat < 0xC000) ∧
    (bitsUdp id = true ↔ 0xC000 ≤ id.toNat ∧ id.toNat < 0xFC00) ∧
    (bitsFrag id = true ↔ 0xFF80 ≤ id.toNat ∧ id.toNat < 0xFF90)

/-- 40_classifier.md section 1 (R103): at most one range holds, in the classifier's own predicates and in their bitwise
decoders. -/
def Obligations.RangesAreDisjoint : Prop :=
  ∀ id : Half,
    List.Pairwise (fun a b => ¬(a = true ∧ b = true)) [inRtc3 id, inRtc1 id, inUdp id, inFrag id] ∧
    List.Pairwise (fun a b => ¬(a = true ∧ b = true)) [bitsRtc3 id, bitsRtc1 id, bitsUdp id, bitsFrag id]

/-- R105, R110 and R116: CLASSIFY completes in every state. A table match wins the tag and gives its index, otherwise the
numeric range gives the tag and NIDX is 0; RTCDISP follows the numeric ranges whatever the table holds; only CLS, NIDX and
STATUS.ERR are written. -/
def Obligations.ClassifyTagsTheIdentifier : Prop :=
  Sys2Proof.decode 0x01 = .classify ∧
  ∀ s : State, TableLegal s.namedTable →
    ∃ t, exec .classify s = .next t ∧
      t = { s with cls := t.cls, nidx := t.nidx, status := s.status &&& 0xF8#8 } ∧
      (∀ k : Nat, s.namedTable[k]? = some s.fidIn → t.cls.extractLsb' 0 3 = 1#3 ∧ t.nidx.toNat = k) ∧
      (s.fidIn ∉ s.namedTable →
        t.nidx = 0x00#8 ∧
        t.cls.extractLsb' 0 3 =
          if 0x0100 ≤ s.fidIn.toNat ∧ s.fidIn.toNat < 0x1000 then 3#3
          else if 0x8000 ≤ s.fidIn.toNat ∧ s.fidIn.toNat < 0xC000 then 2#3
          else if 0xC000 ≤ s.fidIn.toNat ∧ s.fidIn.toNat < 0xFC00 then 4#3
          else if 0xFF80 ≤ s.fidIn.toNat ∧ s.fidIn.toNat < 0xFF90 then 5#3
          else 6#3) ∧
      (t.cls.getLsbD 3 = true ↔
        (0x8000 ≤ s.fidIn.toNat ∧ s.fidIn.toNat < 0xC000) ∨ (0x0100 ≤ s.fidIn.toNat ∧ s.fidIn.toNat < 0x1000)) ∧
      t.cls.extractLsb' 4 4 = 0#4

/-- R120 and R121: RESOLVE completes in every state; a range class gives the range's lowest identifier, a name index below
N its entry, and every other input RARG with HIT = 0; only FOUT, RHIT and STATUS.ERR are written. -/
def Obligations.ResolveGivesTheIdentifierOrEchoes : Prop :=
  Sys2Proof.decode 0x02 = .resolve ∧
  ∀ s : State,
    ∃ t, exec .resolve s = .next t ∧
      t = { s with fout := t.fout, rhit := t.rhit, status := s.status &&& 0xF8#8 } ∧
      (s.rcls.extractLsb' 0 3 = 1#3 → s.rarg.toNat < s.namedTable.length →
        s.namedTable[s.rarg.toNat]? = some t.fout ∧ t.rhit = 0x01#8) ∧
      (s.rcls.extractLsb' 0 3 = 1#3 → s.namedTable.length ≤ s.rarg.toNat → t.fout = s.rarg ∧ t.rhit = 0x00#8) ∧
      (s.rcls.extractLsb' 0 3 = 2#3 → t.fout = 0x8000#16 ∧ t.rhit = 0x01#8) ∧
      (s.rcls.extractLsb' 0 3 = 3#3 → t.fout = 0x0100#16 ∧ t.rhit = 0x01#8) ∧
      (s.rcls.extractLsb' 0 3 = 4#3 → t.fout = 0xC000#16 ∧ t.rhit = 0x01#8) ∧
      (s.rcls.extractLsb' 0 3 = 5#3 → t.fout = 0xFF80#16 ∧ t.rhit = 0x01#8) ∧
      (s.rcls.extractLsb' 0 3 ∈ [0#3, 6#3, 7#3] → t.fout = s.rarg ∧ t.rhit = 0x00#8)

/-- 40_classifier.md section 4, law (a): the lowest identifier of a range class, if no table entry, classifies back to
that class. -/
def Obligations.ResolvedRangeClassClassifiesBack : Prop :=
  ∀ s : State, s.rcls.extractLsb' 0 3 ∈ [2#3, 3#3, 4#3, 5#3] →
    ∃ t, exec .resolve s = .next t ∧
      (t.fout ∉ s.namedTable →
        ∃ u, exec .classify { t with fidIn := t.fout } = .next u ∧ u.cls.extractLsb' 0 3 = s.rcls.extractLsb' 0 3)

/-- 40_classifier.md section 4, law (b): a name index below N, resolved, classifies back to that index. -/
def Obligations.ResolvedNameClassifiesBack : Prop :=
  ∀ s : State, TableLegal s.namedTable → s.rcls.extractLsb' 0 3 = 1#3 → s.rarg.toNat < s.namedTable.length →
    ∃ t u, exec .resolve s = .next t ∧ exec .classify { t with fidIn := t.fout } = .next u ∧
      u.cls.extractLsb' 0 3 = 1#3 ∧ u.nidx.toNat = s.rarg.toNat

/-- 40_classifier.md section 4, law (c): an identifier that classifies as Raw is given back when its class and itself are
resolved. -/
def Obligations.RawIdentifierResolvesToItself : Prop :=
  ∀ s t : State, exec .classify s = .next t → t.cls.extractLsb' 0 3 = 6#3 →
    ∃ u, exec .resolve { t with rcls := t.cls &&& 0x07#8, rarg := t.fidIn } = .next u ∧ u.fout = s.fidIn ∧
      u.rhit = 0x00#8

/-! ## The safety sub-frame codec -/

/-- R131 and R134: LDDESC loads a descriptor with D at most DMAX, and on a longer one clears VALID, keeps the other fields
of ADESC, and records InvalidDescriptor; nothing else is written. -/
def Obligations.LddescLoadsOrRejectsTheDescriptor : Prop :=
  Sys2Proof.decode 0x03 = .lddesc ∧
  ∀ s : State,
    let bound := if s.desc.getLsbD 1 then 13 else 12
    ((s.desc.extractLsb' 4 4).toNat ≤ bound →
      exec .lddesc s = .next { s with
        adesc := s.desc.extractLsb' 4 4 ++ 0b10#2 ++ s.desc.extractLsb' 0 2
        status := s.status &&& 0xF8#8 }) ∧
    (bound < (s.desc.extractLsb' 4 4).toNat →
      exec .lddesc s = .next { s with
        adesc := s.adesc &&& 0xF7#8
        status := (s.status &&& 0xF8#8) ||| 0x01#8
        errAcc := s.errAcc ||| 0x02#8 })

/-- R140 and R144: ENCODE with VALID = 1 writes the data bytes, the flag byte and the CRC field of the seed mode, FLEN and
CONS, and nothing else; with VALID = 0 it records InvalidDescriptor and writes nothing else. Legal rules out an active
descriptor above DMAX, which no run reaches (EveryStepKeepsTheStateLegal). -/
def Obligations.EncodeBuildsTheSubFrame : Prop :=
  Sys2Proof.decode 0x04 = .encode ∧
  ∀ s : State,
    let n := (s.adesc.extractLsb' 4 4).toNat
    let l := n + 1 + if s.adesc.getLsbD 1 then 4 else 3
    (s.adesc.getLsbD 3 = false →
      exec .encode s = .next { s with status := (s.status &&& 0xF8#8) ||| 0x01#8, errAcc := s.errAcc ||| 0x02#8 }) ∧
    (s.adesc.getLsbD 3 = true → Legal s →
      ∃ t, exec .encode s = .next t ∧
        t = { s with frame := t.frame, flen := t.flen, cons := t.cons, status := s.status &&& 0xF8#8 } ∧
        t.flen.toNat = l ∧ t.cons.toNat = l ∧ l ≤ 18 ∧
        (∀ i, i < n → t.frame[i]? = s.data[i]?) ∧
        t.frame[n]? = some s.flags ∧
        (s.adesc.getLsbD 1 = true →
          t.frame[n + 1]? = some (s.crc.extractLsb' 24 8) ∧ t.frame[n + 2]? = some (s.crc.extractLsb' 16 8) ∧
          t.frame[n + 3]? = some (s.crc.extractLsb' 8 8) ∧ t.frame[n + 4]? = some (s.crc.extractLsb' 0 8)) ∧
        (s.adesc.getLsbD 1 = false →
          t.frame[n + 1]? = some (s.crc.extractLsb' 16 8) ∧ t.frame[n + 2]? = some (s.crc.extractLsb' 8 8) ∧
          t.frame[n + 3]? = some (s.crc.extractLsb' 0 8)) ∧
        (∀ i, l ≤ i → t.frame[i]? = s.frame[i]?))

/-- 41_safety_codec.md section 1 (R130): what ENCODE leaves in FRAME[0..L-1] is the byte string data, flags, CRC field. -/
def Obligations.EncodedBytesAreDataFlagsCrc : Prop :=
  ∀ s : State, Legal s → s.adesc.getLsbD 3 = true →
    ∃ t, exec .encode s = .next t ∧
      t.frame.toList.take t.flen.toNat =
        s.data.toList.take (s.adesc.extractLsb' 4 4).toNat ++ [s.flags] ++
          (if s.adesc.getLsbD 1 then [s.crc.extractLsb' 24 8] else []) ++
          [s.crc.extractLsb' 16 8, s.crc.extractLsb' 8 8, s.crc.extractLsb' 0 8]

/-- 41_safety_codec.md section 3: seen through the host's reads, a successful ENCODE changes no byte of the window but
STATUS, FLEN, CONS and FRAME[0..L-1], with L of the active descriptor before the command. -/
def Obligations.EncodeLeavesTheOtherAddresses : Prop :=
  ∀ (s t : State) (a : Addr), Legal s → s.adesc.getLsbD 3 = true → exec .encode s = .next t →
    a ∉ [0x01#7, 0x07#7, 0x08#7] →
    ¬(0x40 ≤ a.toNat ∧
      a.toNat < 0x40 + ((s.adesc.extractLsb' 4 4).toNat + 1 + if s.adesc.getLsbD 1 then 4 else 3)) →
    (memRead a t).1 = (memRead a s).1

/-- R150, R151 and R152: DECODE with VALID = 1 and FLEN at least L writes the data bytes, FLAGS, CRC and CONS, and nothing
else; with VALID = 0 it records InvalidDescriptor, otherwise with FLEN below L TruncatedFrame, and writes nothing else.
Legal rules out an active descriptor above DMAX, which no run reaches (EveryStepKeepsTheStateLegal). -/
def Obligations.DecodeParsesTheSubFrame : Prop :=
  Sys2Proof.decode 0x05 = .decode ∧
  ∀ s : State,
    let n := (s.adesc.extractLsb' 4 4).toNat
    let l := n + 1 + if s.adesc.getLsbD 1 then 4 else 3
    (s.adesc.getLsbD 3 = false →
      exec .decode s = .next { s with status := (s.status &&& 0xF8#8) ||| 0x01#8, errAcc := s.errAcc ||| 0x02#8 }) ∧
    (s.adesc.getLsbD 3 = true → s.flen.toNat < l →
      exec .decode s = .next { s with status := (s.status &&& 0xF8#8) ||| 0x02#8, errAcc := s.errAcc ||| 0x04#8 }) ∧
    (s.adesc.getLsbD 3 = true → l ≤ s.flen.toNat → Legal s →
      ∃ t, exec .decode s = .next t ∧
        t = { s with data := t.data, flags := t.flags, crc := t.crc, cons := t.cons, status := s.status &&& 0xF8#8 } ∧
        t.cons.toNat = l ∧
        (∀ i, i < n → t.data[i]? = s.frame[i]?) ∧
        (∀ i, n ≤ i → t.data[i]? = s.data[i]?) ∧
        s.frame[n]? = some t.flags ∧
        (s.adesc.getLsbD 1 = true →
          s.frame[n + 1]? = some (t.crc.extractLsb' 24 8) ∧ s.frame[n + 2]? = some (t.crc.extractLsb' 16 8) ∧
          s.frame[n + 3]? = some (t.crc.extractLsb' 8 8) ∧ s.frame[n + 4]? = some (t.crc.extractLsb' 0 8)) ∧
        (s.adesc.getLsbD 1 = false →
          t.crc.extractLsb' 24 8 = 0x00#8 ∧ s.frame[n + 1]? = some (t.crc.extractLsb' 16 8) ∧
          s.frame[n + 2]? = some (t.crc.extractLsb' 8 8) ∧ s.frame[n + 3]? = some (t.crc.extractLsb' 0 8)))

/-- 41_safety_codec.md section 4: seen through the host's reads, a successful DECODE changes no byte of the window but
STATUS, FLAGS, CONS, CRC and DATA[0..D-1]. -/
def Obligations.DecodeLeavesTheOtherAddresses : Prop :=
  ∀ (s t : State) (a : Addr), exec .decode s = .next t → t.status.extractLsb' 0 3 = 0#3 →
    a ∉ [0x01#7, 0x06#7, 0x08#7, 0x0C#7, 0x0D#7, 0x0E#7, 0x0F#7] →
    ¬(0x20 ≤ a.toNat ∧ a.toNat < 0x20 + (s.adesc.extractLsb' 4 4).toNat) →
    (memRead a t).1 = (memRead a s).1

/-- 41_safety_codec.md section 1 (R135): the direction changes no byte. ENCODE and DECODE do the same under the other
direction, up to ADESC.DIR itself. -/
def Obligations.DirectionChangesNoByte : Prop :=
  ∀ s t : State,
    (exec .encode s = .next t →
      exec .encode { s with adesc := s.adesc ^^^ 0x01#8 } = .next { t with adesc := s.adesc ^^^ 0x01#8 }) ∧
    (exec .decode s = .next t →
      exec .decode { s with adesc := s.adesc ^^^ 0x01#8 } = .next { t with adesc := s.adesc ^^^ 0x01#8 })

/-- 70_reset_and_hazards.md section 3 (R262), 20_memory.md section 4 (R77): what stands in DESC has no effect on ENCODE
and DECODE. -/
def Obligations.StagedDescriptorHasNoEffectOnTheCodec : Prop :=
  ∀ (s t : State) (v : Byte),
    (exec .encode s = .next t → exec .encode { s with desc := v } = .next { t with desc := v }) ∧
    (exec .decode s = .next t → exec .decode { s with desc := v } = .next { t with desc := v })

/-- 60_exceptions.md section 1 (R209) and 41_safety_codec.md section 3: two states that agree on what ENCODE reads get the
same frame bytes FRAME[0..L-1], lengths and result code, whatever else they hold. -/
def Obligations.EncodeDependsOnlyOnItsInputs : Prop :=
  ∀ s s' t t' : State, Legal s → exec .encode s = .next t → exec .encode s' = .next t' →
    s.adesc = s'.adesc → s.flags = s'.flags →
    (∀ i, i < (s.adesc.extractLsb' 4 4).toNat → s.data[i]? = s'.data[i]?) →
    (s.adesc.getLsbD 1 = true → s.crc = s'.crc) → s.crc.extractLsb' 0 24 = s'.crc.extractLsb' 0 24 →
    t.status.extractLsb' 0 3 = t'.status.extractLsb' 0 3 ∧
    (s.adesc.getLsbD 3 = true →
      t.flen = t'.flen ∧ t.cons = t'.cons ∧
      ∀ i, i < (s.adesc.extractLsb' 4 4).toNat + 1 + (if s.adesc.getLsbD 1 then 4 else 3) →
        t.frame[i]? = t'.frame[i]?)

/-- 60_exceptions.md section 1 (R209) and 41_safety_codec.md section 4 (R154, R155): two states that agree on what DECODE
reads get the same fields, CONS and result code, whatever else they hold. -/
def Obligations.DecodeDependsOnlyOnItsInputs : Prop :=
  ∀ s s' t t' : State, Legal s → exec .decode s = .next t → exec .decode s' = .next t' →
    s.adesc = s'.adesc → s.flen = s'.flen →
    (∀ i, i < (s.adesc.extractLsb' 4 4).toNat + 1 + (if s.adesc.getLsbD 1 then 4 else 3) → s.frame[i]? = s'.frame[i]?) →
    t.status.extractLsb' 0 3 = t'.status.extractLsb' 0 3 ∧
    (t.status.extractLsb' 0 3 = 0#3 →
      t.flags = t'.flags ∧ t.crc = t'.crc ∧ t.cons = t'.cons ∧
      ∀ i, i < (s.adesc.extractLsb' 4 4).toNat → t.data[i]? = t'.data[i]?)

/-- 41_safety_codec.md section 5, first law (R160): ENCODE and then DECODE gives the fields back. DATA[0..D-1], and the
rest of DATA with it, and FLAGS are as before, CRC is as before in Seed mode and has a zero top byte in NoSeed mode, and
CONS is L. -/
def Obligations.DecodeAfterEncodeGivesTheFieldsBack : Prop :=
  ∀ s : State, Legal s → s.adesc.getLsbD 3 = true →
    ∃ t u, exec .encode s = .next t ∧ exec .decode t = .next u ∧
      u.data = s.data ∧ u.flags = s.flags ∧
      u.crc = (if s.adesc.getLsbD 1 then s.crc else 0x00#8 ++ s.crc.extractLsb' 0 24) ∧
      u.cons.toNat = (s.adesc.extractLsb' 4 4).toNat + 1 + (if s.adesc.getLsbD 1 then 4 else 3) ∧
      u.status.extractLsb' 0 3 = 0#3

/-- 41_safety_codec.md section 5, second law (R161): a successful DECODE and then ENCODE leaves every byte of FRAME as it
was and sets FLEN to L. -/
def Obligations.EncodeAfterDecodeGivesTheFrameBack : Prop :=
  ∀ s : State, Legal s → s.adesc.getLsbD 3 = true →
    (s.adesc.extractLsb' 4 4).toNat + 1 + (if s.adesc.getLsbD 1 then 4 else 3) ≤ s.flen.toNat →
    ∃ t u, exec .decode s = .next t ∧ exec .encode t = .next u ∧ u.frame = s.frame ∧
      u.flen.toNat = (s.adesc.extractLsb' 4 4).toNat + 1 + (if s.adesc.getLsbD 1 then 4 else 3) ∧
      u.status.extractLsb' 0 3 = 0#3

/-- R162: a Control, NoSeed, D = 12 descriptor gives 16 bytes, and a Status, Seed, D = 13 descriptor 18. -/
def Obligations.LongestFramesHaveTheSourcesLengths : Prop :=
  ∀ s : State,
    (s.desc = 0xC0#8 →
      ∃ t u, exec .lddesc s = .next t ∧ exec .encode t = .next u ∧ u.cons = 16#8 ∧ u.flen = 16#8) ∧
    (s.desc = 0xD3#8 →
      ∃ t u, exec .lddesc s = .next t ∧ exec .encode t = .next u ∧ u.cons = 18#8 ∧ u.flen = 18#8)

/-! ## Names and host syntax -/

/-- 10_state.md section 4 (R33, R34; the bit positions are the spec's own choice, log 11): the k-th listed name of a direction
stands at bit k, and bit k of that direction's set is that name. -/
def Obligations.FlagNamesStandInListOrder : Prop :=
  [ControlFlag.iParEN, .oAReq, .rConsNr, .useTO2, .activateFV, .toggleH, .chFAck, .loopcheck].map ControlFlag.bit =
    [0, 1, 2, 3, 4, 5, 6, 7] ∧
  [StatusFlag.iParOK, .deviceFaultOrChFAckReq, .ceCRC, .wdTimeout, .fvActivated, .toggleD, .consNrR, .reserved].map
    StatusFlag.bit = [0, 1, 2, 3, 4, 5, 6, 7] ∧
  (∀ (d : Direction) (k : Fin 8), (flagAt d k).bit = k ∧ (flagAt d k).dir = d) ∧
  (∀ f : FlagName, flagAt f.dir f.bit = f)

/-- 30_encoding.md section 4 (R89): run from any state, the expansion of a setting pseudo-instruction leaves the value in
its register, one host access a step, and nothing else of the block changes. The log is the model's field (log 1). -/
def Obligations.SettingPseudoInstructionsLoadTheirRegisters : Prop :=
  ∀ (s : State) (rest : List HostEvent),
    (∀ v : Half, s.pending = (HostStmt.setFid v).expand ++ rest →
      ∃ t, Sys2Proof.core.run 2 s = .next t ∧ t = { s with fidIn := v, pending := rest, busLog := State.busLog t }) ∧
    (∀ v : Half, s.pending = (HostStmt.setRarg v).expand ++ rest →
      ∃ t, Sys2Proof.core.run 2 s = .next t ∧ t = { s with rarg := v, pending := rest, busLog := State.busLog t }) ∧
    (∀ v : Quad, s.pending = (HostStmt.setCrc v).expand ++ rest →
      ∃ t, Sys2Proof.core.run 4 s = .next t ∧ t = { s with crc := v, pending := rest, busLog := State.busLog t }) ∧
    (∀ (dir : Direction) (mode : SeedMode) (d : BitVec 4), s.pending = (HostStmt.setDesc dir mode d).expand ++ rest →
      ∃ t : State, Sys2Proof.core.run 1 s = .next t ∧ descriptorOf t.desc = ⟨dir, mode, d⟩ ∧
        t = { s with desc := t.desc, pending := rest, busLog := t.busLog }) ∧
    (∀ k : BitVec 3, s.pending = (HostStmt.setRcls k).expand ++ rest →
      ∃ t : State, Sys2Proof.core.run 1 s = .next t ∧ t.rcls.extractLsb' 0 3 = k ∧
        t = { s with rcls := t.rcls, pending := rest, busLog := t.busLog }) ∧
    (s.pending = HostStmt.clrErr.expand ++ rest →
      ∃ t : State, Sys2Proof.core.run 1 s = .next t ∧ NoErrorRecorded t ∧
        t = { s with errAcc := t.errAcc, pending := rest, busLog := t.busLog }) ∧
    (∀ (i : Fin 13) (v : Byte), s.pending = (HostStmt.wrData i v).expand ++ rest →
      ∃ t : State, Sys2Proof.core.run 1 s = .next t ∧
        t = { s with data := s.data.set i v, pending := rest, busLog := t.busLog }) ∧
    (∀ (i : Fin 18) (v : Byte), s.pending = (HostStmt.wrFrame i v).expand ++ rest →
      ∃ t : State, Sys2Proof.core.run 1 s = .next t ∧
        t = { s with frame := s.frame.set i v, pending := rest, busLog := t.busLog })

/-- 30_encoding.md section 4 (R89) and 20_memory.md section 2 (R63): RD16 reads the high byte and then the low byte, and
changes nothing of the block. The accesses wait in `pending` and the bytes read stand on `busLog`: the two are the model's
own fields (log 1, the model's choice). -/
def Obligations.WideReadGivesHighThenLowByte : Prop :=
  ∀ (s : State) (rest : List HostEvent) (r : WideReg), s.pending = (HostStmt.rd16 r).expand ++ rest →
    let v : Half := match r with
      | .fid => s.fidIn
      | .rarg => s.rarg
      | .fout => s.fout
    let a : Addr := match r with
      | .fid => 0x10
      | .rarg => 0x16
      | .fout => 0x18
    ∃ t : State, Sys2Proof.core.run 2 s = .next t ∧
      t = { s with
        pending := rest
        busLog := ⟨.R, a + 1, v.extractLsb' 0 8⟩ :: ⟨.R, a, v.extractLsb' 8 8⟩ :: s.busLog }
end

