-- ==== Sys2Proof/Laws/State.lean ====
section
/-! SUPPORT. What each named update of State leaves in each field, so that no proof unfolds a record update. -/

namespace Sys2Proof.Machine.State

/-! ## `succeed`: a successful end -/

@[simp] theorem succeed_status (s : State) : (s.succeed).status = setErr s.status 0 := rfl
@[simp] theorem succeed_errAcc (s : State) : (s.succeed).errAcc = s.errAcc := rfl
@[simp] theorem succeed_desc (s : State) : (s.succeed).desc = s.desc := rfl
@[simp] theorem succeed_adesc (s : State) : (s.succeed).adesc = s.adesc := rfl
@[simp] theorem succeed_flags (s : State) : (s.succeed).flags = s.flags := rfl
@[simp] theorem succeed_flen (s : State) : (s.succeed).flen = s.flen := rfl
@[simp] theorem succeed_cons (s : State) : (s.succeed).cons = s.cons := rfl
@[simp] theorem succeed_crc (s : State) : (s.succeed).crc = s.crc := rfl
@[simp] theorem succeed_fidIn (s : State) : (s.succeed).fidIn = s.fidIn := rfl
@[simp] theorem succeed_cls (s : State) : (s.succeed).cls = s.cls := rfl
@[simp] theorem succeed_nidx (s : State) : (s.succeed).nidx = s.nidx := rfl
@[simp] theorem succeed_rcls (s : State) : (s.succeed).rcls = s.rcls := rfl
@[simp] theorem succeed_rarg (s : State) : (s.succeed).rarg = s.rarg := rfl
@[simp] theorem succeed_fout (s : State) : (s.succeed).fout = s.fout := rfl
@[simp] theorem succeed_rhit (s : State) : (s.succeed).rhit = s.rhit := rfl
@[simp] theorem succeed_data (s : State) : (s.succeed).data = s.data := rfl
@[simp] theorem succeed_frame (s : State) : (s.succeed).frame = s.frame := rfl
@[simp] theorem succeed_namedTable (s : State) : (s.succeed).namedTable = s.namedTable := rfl
@[simp] theorem succeed_pending (s : State) : (s.succeed).pending = s.pending := rfl
@[simp] theorem succeed_busLog (s : State) : (s.succeed).busLog = s.busLog := rfl

/-! ## `raise`: a command error -/

@[simp] theorem raise_status (s : State) (e : CmdError) : (s.raise e).status = setErr s.status e.code := rfl
@[simp] theorem raise_errAcc (s : State) (e : CmdError) : (s.raise e).errAcc = recordError s.errAcc e.code := rfl
@[simp] theorem raise_desc (s : State) (e : CmdError) : (s.raise e).desc = s.desc := rfl
@[simp] theorem raise_adesc (s : State) (e : CmdError) : (s.raise e).adesc = s.adesc := rfl
@[simp] theorem raise_flags (s : State) (e : CmdError) : (s.raise e).flags = s.flags := rfl
@[simp] theorem raise_flen (s : State) (e : CmdError) : (s.raise e).flen = s.flen := rfl
@[simp] theorem raise_cons (s : State) (e : CmdError) : (s.raise e).cons = s.cons := rfl
@[simp] theorem raise_crc (s : State) (e : CmdError) : (s.raise e).crc = s.crc := rfl
@[simp] theorem raise_fidIn (s : State) (e : CmdError) : (s.raise e).fidIn = s.fidIn := rfl
@[simp] theorem raise_cls (s : State) (e : CmdError) : (s.raise e).cls = s.cls := rfl
@[simp] theorem raise_nidx (s : State) (e : CmdError) : (s.raise e).nidx = s.nidx := rfl
@[simp] theorem raise_rcls (s : State) (e : CmdError) : (s.raise e).rcls = s.rcls := rfl
@[simp] theorem raise_rarg (s : State) (e : CmdError) : (s.raise e).rarg = s.rarg := rfl
@[simp] theorem raise_fout (s : State) (e : CmdError) : (s.raise e).fout = s.fout := rfl
@[simp] theorem raise_rhit (s : State) (e : CmdError) : (s.raise e).rhit = s.rhit := rfl
@[simp] theorem raise_data (s : State) (e : CmdError) : (s.raise e).data = s.data := rfl
@[simp] theorem raise_frame (s : State) (e : CmdError) : (s.raise e).frame = s.frame := rfl
@[simp] theorem raise_namedTable (s : State) (e : CmdError) : (s.raise e).namedTable = s.namedTable := rfl
@[simp] theorem raise_pending (s : State) (e : CmdError) : (s.raise e).pending = s.pending := rfl
@[simp] theorem raise_busLog (s : State) (e : CmdError) : (s.raise e).busLog = s.busLog := rfl

/-! ## `badAccess`: a refused access -/

@[simp] theorem badAccess_status (s : State) : (s.badAccess).status = s.status := rfl
@[simp] theorem badAccess_errAcc (s : State) : (s.badAccess).errAcc = recordBadAccess s.errAcc := rfl
@[simp] theorem badAccess_desc (s : State) : (s.badAccess).desc = s.desc := rfl
@[simp] theorem badAccess_adesc (s : State) : (s.badAccess).adesc = s.adesc := rfl
@[simp] theorem badAccess_flags (s : State) : (s.badAccess).flags = s.flags := rfl
@[simp] theorem badAccess_flen (s : State) : (s.badAccess).flen = s.flen := rfl
@[simp] theorem badAccess_cons (s : State) : (s.badAccess).cons = s.cons := rfl
@[simp] theorem badAccess_crc (s : State) : (s.badAccess).crc = s.crc := rfl
@[simp] theorem badAccess_fidIn (s : State) : (s.badAccess).fidIn = s.fidIn := rfl
@[simp] theorem badAccess_cls (s : State) : (s.badAccess).cls = s.cls := rfl
@[simp] theorem badAccess_nidx (s : State) : (s.badAccess).nidx = s.nidx := rfl
@[simp] theorem badAccess_rcls (s : State) : (s.badAccess).rcls = s.rcls := rfl
@[simp] theorem badAccess_rarg (s : State) : (s.badAccess).rarg = s.rarg := rfl
@[simp] theorem badAccess_fout (s : State) : (s.badAccess).fout = s.fout := rfl
@[simp] theorem badAccess_rhit (s : State) : (s.badAccess).rhit = s.rhit := rfl
@[simp] theorem badAccess_data (s : State) : (s.badAccess).data = s.data := rfl
@[simp] theorem badAccess_frame (s : State) : (s.badAccess).frame = s.frame := rfl
@[simp] theorem badAccess_namedTable (s : State) : (s.badAccess).namedTable = s.namedTable := rfl
@[simp] theorem badAccess_pending (s : State) : (s.badAccess).pending = s.pending := rfl
@[simp] theorem badAccess_busLog (s : State) : (s.badAccess).busLog = s.busLog := rfl

/-! ## `record`: a recorded transaction -/

@[simp] theorem record_status (s : State) (t : Transaction) : (s.record t).status = s.status := rfl
@[simp] theorem record_errAcc (s : State) (t : Transaction) : (s.record t).errAcc = s.errAcc := rfl
@[simp] theorem record_desc (s : State) (t : Transaction) : (s.record t).desc = s.desc := rfl
@[simp] theorem record_adesc (s : State) (t : Transaction) : (s.record t).adesc = s.adesc := rfl
@[simp] theorem record_flags (s : State) (t : Transaction) : (s.record t).flags = s.flags := rfl
@[simp] theorem record_flen (s : State) (t : Transaction) : (s.record t).flen = s.flen := rfl
@[simp] theorem record_cons (s : State) (t : Transaction) : (s.record t).cons = s.cons := rfl
@[simp] theorem record_crc (s : State) (t : Transaction) : (s.record t).crc = s.crc := rfl
@[simp] theorem record_fidIn (s : State) (t : Transaction) : (s.record t).fidIn = s.fidIn := rfl
@[simp] theorem record_cls (s : State) (t : Transaction) : (s.record t).cls = s.cls := rfl
@[simp] theorem record_nidx (s : State) (t : Transaction) : (s.record t).nidx = s.nidx := rfl
@[simp] theorem record_rcls (s : State) (t : Transaction) : (s.record t).rcls = s.rcls := rfl
@[simp] theorem record_rarg (s : State) (t : Transaction) : (s.record t).rarg = s.rarg := rfl
@[simp] theorem record_fout (s : State) (t : Transaction) : (s.record t).fout = s.fout := rfl
@[simp] theorem record_rhit (s : State) (t : Transaction) : (s.record t).rhit = s.rhit := rfl
@[simp] theorem record_data (s : State) (t : Transaction) : (s.record t).data = s.data := rfl
@[simp] theorem record_frame (s : State) (t : Transaction) : (s.record t).frame = s.frame := rfl
@[simp] theorem record_namedTable (s : State) (t : Transaction) : (s.record t).namedTable = s.namedTable := rfl
@[simp] theorem record_pending (s : State) (t : Transaction) : (s.record t).pending = s.pending := rfl
@[simp] theorem record_busLog (s : State) (t : Transaction) : (s.record t).busLog = t :: s.busLog := rfl

/-! ## `withPending`: what the host has yet to issue -/

@[simp] theorem withPending_status (s : State) (events : List HostEvent) :
    (s.withPending events).status = s.status := rfl
@[simp] theorem withPending_errAcc (s : State) (events : List HostEvent) :
    (s.withPending events).errAcc = s.errAcc := rfl
@[simp] theorem withPending_desc (s : State) (events : List HostEvent) : (s.withPending events).desc = s.desc := rfl
@[simp] theorem withPending_adesc (s : State) (events : List HostEvent) : (s.withPending events).adesc = s.adesc := rfl
@[simp] theorem withPending_flags (s : State) (events : List HostEvent) : (s.withPending events).flags = s.flags := rfl
@[simp] theorem withPending_flen (s : State) (events : List HostEvent) : (s.withPending events).flen = s.flen := rfl
@[simp] theorem withPending_cons (s : State) (events : List HostEvent) : (s.withPending events).cons = s.cons := rfl
@[simp] theorem withPending_crc (s : State) (events : List HostEvent) : (s.withPending events).crc = s.crc := rfl
@[simp] theorem withPending_fidIn (s : State) (events : List HostEvent) : (s.withPending events).fidIn = s.fidIn := rfl
@[simp] theorem withPending_cls (s : State) (events : List HostEvent) : (s.withPending events).cls = s.cls := rfl
@[simp] theorem withPending_nidx (s : State) (events : List HostEvent) : (s.withPending events).nidx = s.nidx := rfl
@[simp] theorem withPending_rcls (s : State) (events : List HostEvent) : (s.withPending events).rcls = s.rcls := rfl
@[simp] theorem withPending_rarg (s : State) (events : List HostEvent) : (s.withPending events).rarg = s.rarg := rfl
@[simp] theorem withPending_fout (s : State) (events : List HostEvent) : (s.withPending events).fout = s.fout := rfl
@[simp] theorem withPending_rhit (s : State) (events : List HostEvent) : (s.withPending events).rhit = s.rhit := rfl
@[simp] theorem withPending_data (s : State) (events : List HostEvent) : (s.withPending events).data = s.data := rfl
@[simp] theorem withPending_frame (s : State) (events : List HostEvent) : (s.withPending events).frame = s.frame := rfl
@[simp] theorem withPending_namedTable (s : State) (events : List HostEvent) :
    (s.withPending events).namedTable = s.namedTable := rfl
@[simp] theorem withPending_pending (s : State) (events : List HostEvent) :
    (s.withPending events).pending = events := rfl
@[simp] theorem withPending_busLog (s : State) (events : List HostEvent) :
    (s.withPending events).busLog = s.busLog := rfl

/-! ## `resetBlock`: the reset event -/

@[simp] theorem resetBlock_status (s : State) : (s.resetBlock).status = State.reset.status := rfl
@[simp] theorem resetBlock_errAcc (s : State) : (s.resetBlock).errAcc = State.reset.errAcc := rfl
@[simp] theorem resetBlock_desc (s : State) : (s.resetBlock).desc = State.reset.desc := rfl
@[simp] theorem resetBlock_adesc (s : State) : (s.resetBlock).adesc = State.reset.adesc := rfl
@[simp] theorem resetBlock_flags (s : State) : (s.resetBlock).flags = State.reset.flags := rfl
@[simp] theorem resetBlock_flen (s : State) : (s.resetBlock).flen = State.reset.flen := rfl
@[simp] theorem resetBlock_cons (s : State) : (s.resetBlock).cons = State.reset.cons := rfl
@[simp] theorem resetBlock_crc (s : State) : (s.resetBlock).crc = State.reset.crc := rfl
@[simp] theorem resetBlock_fidIn (s : State) : (s.resetBlock).fidIn = State.reset.fidIn := rfl
@[simp] theorem resetBlock_cls (s : State) : (s.resetBlock).cls = State.reset.cls := rfl
@[simp] theorem resetBlock_nidx (s : State) : (s.resetBlock).nidx = State.reset.nidx := rfl
@[simp] theorem resetBlock_rcls (s : State) : (s.resetBlock).rcls = State.reset.rcls := rfl
@[simp] theorem resetBlock_rarg (s : State) : (s.resetBlock).rarg = State.reset.rarg := rfl
@[simp] theorem resetBlock_fout (s : State) : (s.resetBlock).fout = State.reset.fout := rfl
@[simp] theorem resetBlock_rhit (s : State) : (s.resetBlock).rhit = State.reset.rhit := rfl
@[simp] theorem resetBlock_data (s : State) : (s.resetBlock).data = State.reset.data := rfl
@[simp] theorem resetBlock_frame (s : State) : (s.resetBlock).frame = State.reset.frame := rfl
@[simp] theorem resetBlock_namedTable (s : State) : (s.resetBlock).namedTable = s.namedTable := rfl
@[simp] theorem resetBlock_pending (s : State) : (s.resetBlock).pending = s.pending := rfl
@[simp] theorem resetBlock_busLog (s : State) : (s.resetBlock).busLog = s.busLog := rfl

/-! ## `withClass`: CLASSIFY's writes -/

@[simp] theorem withClass_status (s : State) (disp : Bool) (c : TransportClass) :
    (s.withClass disp c).status = s.status := rfl
@[simp] theorem withClass_errAcc (s : State) (disp : Bool) (c : TransportClass) :
    (s.withClass disp c).errAcc = s.errAcc := rfl
@[simp] theorem withClass_desc (s : State) (disp : Bool) (c : TransportClass) :
    (s.withClass disp c).desc = s.desc := rfl
@[simp] theorem withClass_adesc (s : State) (disp : Bool) (c : TransportClass) :
    (s.withClass disp c).adesc = s.adesc := rfl
@[simp] theorem withClass_flags (s : State) (disp : Bool) (c : TransportClass) :
    (s.withClass disp c).flags = s.flags := rfl
@[simp] theorem withClass_flen (s : State) (disp : Bool) (c : TransportClass) :
    (s.withClass disp c).flen = s.flen := rfl
@[simp] theorem withClass_cons (s : State) (disp : Bool) (c : TransportClass) :
    (s.withClass disp c).cons = s.cons := rfl
@[simp] theorem withClass_crc (s : State) (disp : Bool) (c : TransportClass) : (s.withClass disp c).crc = s.crc := rfl
@[simp] theorem withClass_fidIn (s : State) (disp : Bool) (c : TransportClass) :
    (s.withClass disp c).fidIn = s.fidIn := rfl
@[simp] theorem withClass_cls (s : State) (disp : Bool) (c : TransportClass) :
    (s.withClass disp c).cls = clsByte disp c.tag := rfl
@[simp] theorem withClass_nidx (s : State) (disp : Bool) (c : TransportClass) :
    (s.withClass disp c).nidx = c.nameIndex := rfl
@[simp] theorem withClass_rcls (s : State) (disp : Bool) (c : TransportClass) :
    (s.withClass disp c).rcls = s.rcls := rfl
@[simp] theorem withClass_rarg (s : State) (disp : Bool) (c : TransportClass) :
    (s.withClass disp c).rarg = s.rarg := rfl
@[simp] theorem withClass_fout (s : State) (disp : Bool) (c : TransportClass) :
    (s.withClass disp c).fout = s.fout := rfl
@[simp] theorem withClass_rhit (s : State) (disp : Bool) (c : TransportClass) :
    (s.withClass disp c).rhit = s.rhit := rfl
@[simp] theorem withClass_data (s : State) (disp : Bool) (c : TransportClass) :
    (s.withClass disp c).data = s.data := rfl
@[simp] theorem withClass_frame (s : State) (disp : Bool) (c : TransportClass) :
    (s.withClass disp c).frame = s.frame := rfl
@[simp] theorem withClass_namedTable (s : State) (disp : Bool) (c : TransportClass) :
    (s.withClass disp c).namedTable = s.namedTable := rfl
@[simp] theorem withClass_pending (s : State) (disp : Bool) (c : TransportClass) :
    (s.withClass disp c).pending = s.pending := rfl
@[simp] theorem withClass_busLog (s : State) (disp : Bool) (c : TransportClass) :
    (s.withClass disp c).busLog = s.busLog := rfl

/-! ## `withResolved`: RESOLVE's writes -/

@[simp] theorem withResolved_status (s : State) (v : Half) (h : Bool) : (s.withResolved v h).status = s.status := rfl
@[simp] theorem withResolved_errAcc (s : State) (v : Half) (h : Bool) : (s.withResolved v h).errAcc = s.errAcc := rfl
@[simp] theorem withResolved_desc (s : State) (v : Half) (h : Bool) : (s.withResolved v h).desc = s.desc := rfl
@[simp] theorem withResolved_adesc (s : State) (v : Half) (h : Bool) : (s.withResolved v h).adesc = s.adesc := rfl
@[simp] theorem withResolved_flags (s : State) (v : Half) (h : Bool) : (s.withResolved v h).flags = s.flags := rfl
@[simp] theorem withResolved_flen (s : State) (v : Half) (h : Bool) : (s.withResolved v h).flen = s.flen := rfl
@[simp] theorem withResolved_cons (s : State) (v : Half) (h : Bool) : (s.withResolved v h).cons = s.cons := rfl
@[simp] theorem withResolved_crc (s : State) (v : Half) (h : Bool) : (s.withResolved v h).crc = s.crc := rfl
@[simp] theorem withResolved_fidIn (s : State) (v : Half) (h : Bool) : (s.withResolved v h).fidIn = s.fidIn := rfl
@[simp] theorem withResolved_cls (s : State) (v : Half) (h : Bool) : (s.withResolved v h).cls = s.cls := rfl
@[simp] theorem withResolved_nidx (s : State) (v : Half) (h : Bool) : (s.withResolved v h).nidx = s.nidx := rfl
@[simp] theorem withResolved_rcls (s : State) (v : Half) (h : Bool) : (s.withResolved v h).rcls = s.rcls := rfl
@[simp] theorem withResolved_rarg (s : State) (v : Half) (h : Bool) : (s.withResolved v h).rarg = s.rarg := rfl
@[simp] theorem withResolved_fout (s : State) (v : Half) (h : Bool) : (s.withResolved v h).fout = v := rfl
@[simp] theorem withResolved_rhit (s : State) (v : Half) (h : Bool) :
    (s.withResolved v h).rhit = 0b0000000#7 ++ BitVec.ofBool h := rfl
@[simp] theorem withResolved_data (s : State) (v : Half) (h : Bool) : (s.withResolved v h).data = s.data := rfl
@[simp] theorem withResolved_frame (s : State) (v : Half) (h : Bool) : (s.withResolved v h).frame = s.frame := rfl
@[simp] theorem withResolved_namedTable (s : State) (v : Half) (h : Bool) :
    (s.withResolved v h).namedTable = s.namedTable := rfl
@[simp] theorem withResolved_pending (s : State) (v : Half) (h : Bool) :
    (s.withResolved v h).pending = s.pending := rfl
@[simp] theorem withResolved_busLog (s : State) (v : Half) (h : Bool) : (s.withResolved v h).busLog = s.busLog := rfl

/-! ## `withActive`: LDDESC's write -/

@[simp] theorem withActive_status (s : State) (b : Byte) : (s.withActive b).status = s.status := rfl
@[simp] theorem withActive_errAcc (s : State) (b : Byte) : (s.withActive b).errAcc = s.errAcc := rfl
@[simp] theorem withActive_desc (s : State) (b : Byte) : (s.withActive b).desc = s.desc := rfl
@[simp] theorem withActive_adesc (s : State) (b : Byte) : (s.withActive b).adesc = b := rfl
@[simp] theorem withActive_flags (s : State) (b : Byte) : (s.withActive b).flags = s.flags := rfl
@[simp] theorem withActive_flen (s : State) (b : Byte) : (s.withActive b).flen = s.flen := rfl
@[simp] theorem withActive_cons (s : State) (b : Byte) : (s.withActive b).cons = s.cons := rfl
@[simp] theorem withActive_crc (s : State) (b : Byte) : (s.withActive b).crc = s.crc := rfl
@[simp] theorem withActive_fidIn (s : State) (b : Byte) : (s.withActive b).fidIn = s.fidIn := rfl
@[simp] theorem withActive_cls (s : State) (b : Byte) : (s.withActive b).cls = s.cls := rfl
@[simp] theorem withActive_nidx (s : State) (b : Byte) : (s.withActive b).nidx = s.nidx := rfl
@[simp] theorem withActive_rcls (s : State) (b : Byte) : (s.withActive b).rcls = s.rcls := rfl
@[simp] theorem withActive_rarg (s : State) (b : Byte) : (s.withActive b).rarg = s.rarg := rfl
@[simp] theorem withActive_fout (s : State) (b : Byte) : (s.withActive b).fout = s.fout := rfl
@[simp] theorem withActive_rhit (s : State) (b : Byte) : (s.withActive b).rhit = s.rhit := rfl
@[simp] theorem withActive_data (s : State) (b : Byte) : (s.withActive b).data = s.data := rfl
@[simp] theorem withActive_frame (s : State) (b : Byte) : (s.withActive b).frame = s.frame := rfl
@[simp] theorem withActive_namedTable (s : State) (b : Byte) : (s.withActive b).namedTable = s.namedTable := rfl
@[simp] theorem withActive_pending (s : State) (b : Byte) : (s.withActive b).pending = s.pending := rfl
@[simp] theorem withActive_busLog (s : State) (b : Byte) : (s.withActive b).busLog = s.busLog := rfl

/-! ## `packFields`: ENCODE's writes -/

@[simp] theorem packFields_status (s : State) (d : Descriptor) : (s.packFields d).status = s.status := rfl
@[simp] theorem packFields_errAcc (s : State) (d : Descriptor) : (s.packFields d).errAcc = s.errAcc := rfl
@[simp] theorem packFields_desc (s : State) (d : Descriptor) : (s.packFields d).desc = s.desc := rfl
@[simp] theorem packFields_adesc (s : State) (d : Descriptor) : (s.packFields d).adesc = s.adesc := rfl
@[simp] theorem packFields_flags (s : State) (d : Descriptor) : (s.packFields d).flags = s.flags := rfl
@[simp] theorem packFields_flen (s : State) (d : Descriptor) :
    (s.packFields d).flen = BitVec.ofNat 8 d.frameLength := rfl
@[simp] theorem packFields_cons (s : State) (d : Descriptor) :
    (s.packFields d).cons = BitVec.ofNat 8 d.frameLength := rfl
@[simp] theorem packFields_crc (s : State) (d : Descriptor) : (s.packFields d).crc = s.crc := rfl
@[simp] theorem packFields_fidIn (s : State) (d : Descriptor) : (s.packFields d).fidIn = s.fidIn := rfl
@[simp] theorem packFields_cls (s : State) (d : Descriptor) : (s.packFields d).cls = s.cls := rfl
@[simp] theorem packFields_nidx (s : State) (d : Descriptor) : (s.packFields d).nidx = s.nidx := rfl
@[simp] theorem packFields_rcls (s : State) (d : Descriptor) : (s.packFields d).rcls = s.rcls := rfl
@[simp] theorem packFields_rarg (s : State) (d : Descriptor) : (s.packFields d).rarg = s.rarg := rfl
@[simp] theorem packFields_fout (s : State) (d : Descriptor) : (s.packFields d).fout = s.fout := rfl
@[simp] theorem packFields_rhit (s : State) (d : Descriptor) : (s.packFields d).rhit = s.rhit := rfl
@[simp] theorem packFields_data (s : State) (d : Descriptor) : (s.packFields d).data = s.data := rfl
@[simp] theorem packFields_frame (s : State) (d : Descriptor) :
    (s.packFields d).frame = packFrame d s.data s.flags s.crc s.frame := rfl
@[simp] theorem packFields_namedTable (s : State) (d : Descriptor) : (s.packFields d).namedTable = s.namedTable := rfl
@[simp] theorem packFields_pending (s : State) (d : Descriptor) : (s.packFields d).pending = s.pending := rfl
@[simp] theorem packFields_busLog (s : State) (d : Descriptor) : (s.packFields d).busLog = s.busLog := rfl

/-! ## `unpackFields`: DECODE's writes -/

@[simp] theorem unpackFields_status (s : State) (d : Descriptor) : (s.unpackFields d).status = s.status := rfl
@[simp] theorem unpackFields_errAcc (s : State) (d : Descriptor) : (s.unpackFields d).errAcc = s.errAcc := rfl
@[simp] theorem unpackFields_desc (s : State) (d : Descriptor) : (s.unpackFields d).desc = s.desc := rfl
@[simp] theorem unpackFields_adesc (s : State) (d : Descriptor) : (s.unpackFields d).adesc = s.adesc := rfl
@[simp] theorem unpackFields_flags (s : State) (d : Descriptor) :
    (s.unpackFields d).flags = byteAt s.frame d.dataLength := rfl
@[simp] theorem unpackFields_flen (s : State) (d : Descriptor) : (s.unpackFields d).flen = s.flen := rfl
@[simp] theorem unpackFields_cons (s : State) (d : Descriptor) :
    (s.unpackFields d).cons = BitVec.ofNat 8 d.frameLength := rfl
@[simp] theorem unpackFields_crc (s : State) (d : Descriptor) :
    (s.unpackFields d).crc = takeCrc d.seed (d.dataLength + 1) s.frame := rfl
@[simp] theorem unpackFields_fidIn (s : State) (d : Descriptor) : (s.unpackFields d).fidIn = s.fidIn := rfl
@[simp] theorem unpackFields_cls (s : State) (d : Descriptor) : (s.unpackFields d).cls = s.cls := rfl
@[simp] theorem unpackFields_nidx (s : State) (d : Descriptor) : (s.unpackFields d).nidx = s.nidx := rfl
@[simp] theorem unpackFields_rcls (s : State) (d : Descriptor) : (s.unpackFields d).rcls = s.rcls := rfl
@[simp] theorem unpackFields_rarg (s : State) (d : Descriptor) : (s.unpackFields d).rarg = s.rarg := rfl
@[simp] theorem unpackFields_fout (s : State) (d : Descriptor) : (s.unpackFields d).fout = s.fout := rfl
@[simp] theorem unpackFields_rhit (s : State) (d : Descriptor) : (s.unpackFields d).rhit = s.rhit := rfl
@[simp] theorem unpackFields_data (s : State) (d : Descriptor) :
    (s.unpackFields d).data = copyBytes s.frame d.dataLength s.data := rfl
@[simp] theorem unpackFields_frame (s : State) (d : Descriptor) : (s.unpackFields d).frame = s.frame := rfl
@[simp] theorem unpackFields_namedTable (s : State) (d : Descriptor) :
    (s.unpackFields d).namedTable = s.namedTable := rfl
@[simp] theorem unpackFields_pending (s : State) (d : Descriptor) : (s.unpackFields d).pending = s.pending := rfl
@[simp] theorem unpackFields_busLog (s : State) (d : Descriptor) : (s.unpackFields d).busLog = s.busLog := rfl

/-! ## `withFetchWord`: the command write waits first -/

@[simp] theorem withFetchWord_pending (s : State) (n w : Nat) :
    (s.withFetchWord n w).pending = .write 0x00 (BitVec.ofNat 8 w) :: s.pending := rfl

end Sys2Proof.Machine.State
end

