-- ==== Sys2Proof/Laws/Ops.lean ====
section
/-! SUPPORT. One lemma per shared operation that says what it does, for proofs to cite instead of unfolding it: buffer
bytes, result codes, the named-frame table, the register map, and what a command or a step can answer. -/

namespace Sys2Proof.Machine

/-! ## Buffer bytes -/

section Buffers
variable {m n : Nat}

/-- Inside the buffer, `byteAt` is the buffer's own byte. -/
theorem getElem?_eq_byteAt (v : Vector Byte n) {i : Nat} (h : i < n) : v[i]? = some (byteAt v i) := by
  simp [byteAt, h]

theorem putByte_getElem? (v : Vector Byte n) (i j : Nat) (b : Byte) :
    (putByte v i b)[j]? = if i = j ∧ i < n then some b else v[j]? := by
  unfold putByte
  rw [Vector.getElem?_setIfInBounds]
  split <;> split <;> simp_all

theorem copyBytes_getElem? (src : Vector Byte m) (k j : Nat) (dst : Vector Byte n) :
    (copyBytes src k dst)[j]? = if j < k ∧ j < n then some (byteAt src j) else dst[j]? := by
  induction k with
  | zero => simp [copyBytes]
  | succ k ih =>
    rw [copyBytes, putByte_getElem?, ih]
    by_cases hk : k = j
    · subst hk
      by_cases hn : k < n <;> simp [hn]
    · have : j < k + 1 ↔ j < k := by omega
      simp [hk, this]

/-- Two buffers with the same byte at every index are equal. -/
theorem buffer_ext {v w : Vector Byte n} (h : ∀ i, i < n → v[i]? = w[i]?) : v = w := by
  refine Vector.ext fun i hi => ?_
  have := h i hi
  simpa [hi] using this

end Buffers

/-! ## Result codes -/

@[simp] theorem errField_setErr (st : Byte) (code : BitVec 3) : (setErr st code).extractLsb' 0 3 = code := by
  unfold setErr
  ext i hi
  have : (248#8).getLsbD i = false := by
    have : i = 0 ∨ i = 1 ∨ i = 2 := by omega
    rcases this with rfl | rfl | rfl <;> rfl
  simp only [BitVec.getElem_extractLsb', Nat.zero_add, BitVec.getLsbD_or, BitVec.getLsbD_and, this, Bool.and_false,
    Bool.false_or, BitVec.getLsbD_setWidth]
  simp [BitVec.getLsbD_eq_getElem hi]
  omega

/-- Only bits [2:0] of STATUS are written. -/
@[simp] theorem setErr_upper (st : Byte) (code : BitVec 3) :
    (setErr st code).extractLsb' 3 5 = st.extractLsb' 3 5 := by
  unfold setErr
  ext i hi
  have h1 : (248#8).getLsbD (3 + i) = true := by
    have : i = 0 ∨ i = 1 ∨ i = 2 ∨ i = 3 ∨ i = 4 := by omega
    rcases this with rfl | rfl | rfl | rfl | rfl <;> rfl
  have h2 : code.getLsbD (3 + i) = false := BitVec.getLsbD_of_ge _ _ (by omega)
  simp only [BitVec.getElem_extractLsb', BitVec.getLsbD_or, BitVec.getLsbD_and, h1, Bool.and_true,
    BitVec.getLsbD_setWidth, h2, Bool.and_false, Bool.or_false]

theorem setErr_zero (st : Byte) : setErr st 0 = st &&& 0xF8#8 := by
  simp [setErr]

/-! ## The named-frame table -/

/-- A table of the form R8 asks for is not changed by normalising it, so no such table is shut out. -/
theorem normaliseTable_of_legal {t : List Half} (h : TableLegal t) : Config.normaliseTable t = t := by
  unfold Config.normaliseTable Config.maxNames
  rw [List.take_of_length_le h.1, List.dedup_eq_self.2 h.2]

/-- The table the block is built with has the form R8 asks for. -/
theorem namedTable_legal : TableLegal Config.namedTable := by
  refine ⟨?_, List.nodup_dedup _⟩
  calc (Config.namedTable).length ≤ (Config.rawNamedTable.take Config.maxNames).length :=
        (List.dedup_sublist _).length_le
    _ ≤ 256 := List.length_take_le ..

theorem namedIndex_eq_none {t : List Half} {id : Half} : namedIndex t id = none ↔ id ∉ t := by
  unfold namedIndex
  rw [List.findIdx?_eq_none_iff]
  constructor
  · intro h hm
    have := h id hm
    simp at this
  · intro h x hx
    simp only [beq_eq_false_iff_ne, ne_eq]
    rintro rfl
    exact h hx

/-- The index found is an index of the table, and the id stands there. -/
theorem namedIndex_getElem? {t : List Half} {id : Half} {k : Nat} (h : namedIndex t id = some k) :
    t[k]? = some id := by
  unfold namedIndex at h
  obtain ⟨hlt, heq, -⟩ := List.findIdx?_eq_some_iff_getElem.1 h
  rw [List.getElem?_eq_getElem hlt]
  simpa using heq

/-- In a table without repeats the index found is the only one (R104). -/
theorem namedIndex_of_getElem? {t : List Half} {id : Half} {k : Nat} (hn : t.Nodup) (h : t[k]? = some id) :
    namedIndex t id = some k := by
  obtain ⟨hk, hid⟩ := List.getElem?_eq_some_iff.1 h
  cases hj : namedIndex t id with
  | none => exact absurd (hid ▸ List.getElem_mem hk) (namedIndex_eq_none.1 hj)
  | some j =>
    obtain ⟨hj', hid'⟩ := List.getElem?_eq_some_iff.1 (namedIndex_getElem? hj)
    rw [(hn.getElem_inj_iff).1 (hid'.trans hid.symm)]

/-! ## What a command or a step answers -/

@[simp] theorem CmdError.code_ne_zero (e : CmdError) : e.code ≠ 0#3 := by cases e <;> decide

theorem CmdError.code_le (e : CmdError) : e.code.toNat ≤ 3 := by cases e <;> decide

/-- `ERRACC[code] <- 1`, bit by bit. -/
theorem recordError_getLsbD (x : Byte) (e : CmdError) {k : Nat} (hk : k < 8) :
    (recordError x e.code).getLsbD k = (x.getLsbD k || k == e.code.toNat) := by
  unfold recordError
  have : k = 0 ∨ k = 1 ∨ k = 2 ∨ k = 3 ∨ k = 4 ∨ k = 5 ∨ k = 6 ∨ k = 7 := by omega
  rcases this with rfl | rfl | rfl | rfl | rfl | rfl | rfl | rfl <;> cases e <;> simp [CmdError.code]

/-- Every command answers a next state: no arm of `exec` faults or refuses. -/
theorem exec_answers (i : Instr) (s : State) : ∃ t, exec i s = .next t := by
  cases i <;> simp only [exec, execNop, execClassify, execResolve, execIllegalOp6to7, execIllegalOp8to15,
    execIllegalRsvBit4, execIllegalRsvBit5, execIllegalRsvBit6, execIllegalRsvBit7, Host.Outcome.next.injEq,
    exists_eq', execLddesc, execEncode, execDecode]
  all_goals repeat' split
  all_goals exact ⟨_, rfl⟩

/-- What every command can do, said once: its success, or the error it raises and under which condition. -/
theorem exec_cases {i : Instr} {s t : State} (h : exec i s = .next t) :
    (i = .nop ∧ t = s.succeed) ∨
    (i = .classify ∧ t = (s.withClass (rtcdisp s.fidIn) (classify s.namedTable s.fidIn)).succeed) ∨
    (i = .resolve ∧ t = (s.withResolved (resolve s.namedTable (classOperand s.rcls) s.rarg).1
      (resolve s.namedTable (classOperand s.rcls) s.rarg).2).succeed) ∨
    (i = .lddesc ∧ (descriptorOf s.desc).inBounds = true ∧
      t = (s.withActive (descriptorOf s.desc).activeByte).succeed) ∨
    (i = .lddesc ∧ (descriptorOf s.desc).inBounds = false ∧
      t = (s.withActive (clearValid s.adesc)).raise .invalidDescriptor) ∨
    (i = .encode ∧ validBit s.adesc = true ∧ t = (s.packFields (descriptorOf s.adesc)).succeed) ∨
    (i = .decode ∧ validBit s.adesc = true ∧ (descriptorOf s.adesc).frameLength ≤ s.flen.toNat ∧
      t = (s.unpackFields (descriptorOf s.adesc)).succeed) ∨
    ((i = .encode ∨ i = .decode) ∧ validBit s.adesc = false ∧ t = s.raise .invalidDescriptor) ∨
    (i = .decode ∧ validBit s.adesc = true ∧ s.flen.toNat < (descriptorOf s.adesc).frameLength ∧
      t = s.raise .truncatedFrame) ∨
    (i.illegal = true ∧ t = s.raise .illegalCommand) := by
  cases i
  case nop => simp_all [exec, execNop, Instr.illegal]
  case classify => simp_all [exec, execClassify, Instr.illegal]
  case resolve => simp_all [exec, execResolve, Instr.illegal]
  case lddesc =>
    simp only [exec, execLddesc] at h
    split at h <;> simp_all [Instr.illegal]
  case encode =>
    simp only [exec, execEncode] at h
    split at h <;> simp_all [Instr.illegal]
  case decode =>
    simp only [exec, execDecode] at h
    split at h
    · split at h <;> simp_all [Instr.illegal]
    · simp_all [Instr.illegal]
  all_goals simp_all [exec, Instr.illegal, execIllegalOp6to7, execIllegalOp8to15, execIllegalRsvBit4,
    execIllegalRsvBit5, execIllegalRsvBit6, execIllegalRsvBit7]

/-- What a write to a register other than CMD keeps: STATUS, ADESC, the read-only results, the table and the host's
side. -/
theorem writeReg_keeps (s : State) (v : Byte) (r : RegName) :
    (s.writeReg v r).status = s.status ∧ (s.writeReg v r).adesc = s.adesc ∧ (s.writeReg v r).cons = s.cons ∧
    (s.writeReg v r).cls = s.cls ∧ (s.writeReg v r).nidx = s.nidx ∧ (s.writeReg v r).fout = s.fout ∧
    (s.writeReg v r).rhit = s.rhit ∧ (s.writeReg v r).namedTable = s.namedTable ∧
    (s.writeReg v r).pending = s.pending ∧ (s.writeReg v r).busLog = s.busLog := by
  cases r <;> exact ⟨rfl, rfl, rfl, rfl, rfl, rfl, rfl, rfl, rfl, rfl⟩

/-- A host write answers a next state and leaves the host's side as it was. -/
theorem memWrite_answers (a : Addr) (v : Byte) (s : State) :
    ∃ t, memWrite a v s = .next t ∧ t.pending = s.pending ∧ t.busLog = s.busLog := by
  unfold memWrite
  split
  · obtain ⟨t, ht⟩ := exec_answers (Sys2Proof.decode v) s
    refine ⟨t, ht, ?_⟩
    rcases exec_cases ht with h | h | h | h | h | h | h | h | h | h
    all_goals simp [h]
  · exact ⟨_, rfl, (writeReg_keeps _ _ _).2.2.2.2.2.2.2.2⟩

/-- A step that takes a write to any address but CMD's writes that register. -/
theorem step_write {s : State} {a : Addr} {v : Byte} {rest : List HostEvent} (h : s.pending = .write a v :: rest)
    (hc : locate a ≠ .cmd) : step s = .next (((s.withPending rest).record ⟨.W, a, v⟩).writeReg v (locate a)) := by
  unfold step runNext
  rw [h]
  simp only [runEvent, hostWrite, memWrite]

/-- What a step can do, said once: wait, read, write a register, run a command, or reset. -/
theorem step_cases {s t : State} (h : step s = .next t) :
    (s.pending = [] ∧ t = s) ∨
    (∃ a rest, s.pending = .read a :: rest ∧ t = hostRead a (s.withPending rest)) ∨
    (∃ a v rest, s.pending = .write a v :: rest ∧ locate a ≠ .cmd ∧
      t = ((s.withPending rest).record ⟨.W, a, v⟩).writeReg v (locate a)) ∨
    (∃ a c rest, s.pending = .write a c :: rest ∧ locate a = .cmd ∧
      exec (Sys2Proof.decode c) ((s.withPending rest).record ⟨.W, a, c⟩) = .next t) ∨
    (∃ rest, s.pending = .reset :: rest ∧ t = (s.withPending rest).resetBlock) := by
  unfold step runNext at h
  split at h
  case h_1 hp => exact .inl ⟨hp, (Host.Outcome.next.inj h).symm⟩
  case h_2 e rest hp =>
    cases e with
    | read a => exact .inr (.inl ⟨a, rest, hp, (Host.Outcome.next.inj h).symm⟩)
    | reset => exact .inr (.inr (.inr (.inr ⟨rest, hp, (Host.Outcome.next.inj h).symm⟩)))
    | write a v =>
      simp only [runEvent, hostWrite, memWrite] at h
      split at h
      case h_1 hc => exact .inr (.inr (.inr (.inl ⟨a, v, rest, hp, hc, h⟩)))
      case h_2 hc => exact .inr (.inr (.inl ⟨a, v, rest, hp, hc, (Host.Outcome.next.inj h).symm⟩))

/-! ## The register map -/

/-- CMD stands at address 0x00 and nowhere else. -/
theorem locate_eq_cmd {a : Addr} : locate a = .cmd ↔ a = 0x00#7 := by
  revert a; decide

/-- A read of an address that is not reserved has no side effect (R170). -/
theorem memRead_of_ne_reserved {a : Addr} (h : locate a ≠ .reserved) (s : State) :
    memRead a s = (s.byteOf a, s) := by
  unfold memRead State.byteOf
  split
  · contradiction
  · rfl

/-- The byte a host read gives is the byte at the address. -/
theorem memRead_fst (a : Addr) (s : State) : (memRead a s).1 = s.byteOf a := by
  unfold memRead State.byteOf
  split
  · simp_all [State.readReg]
  · rfl

/-- A host read leaves the block as it was, or records BADACC (R170, R174). -/
theorem memRead_snd (a : Addr) (s : State) :
    (memRead a s).2 = if locate a = .reserved then s.badAccess else s := by
  unfold memRead
  split
  · simp_all
  · simp_all

end Sys2Proof.Machine
end

