-- ==== Sys2Proof/Laws/Classifier.lean ====
section
/-! SUPPORT. What the classifier's shared operations give: the fields of the CLS byte, the range predicates as
inequalities, the tag and index of a classification. -/

namespace Sys2Proof.Machine

/-- The fields of `{0b0000, disp, tag}`. -/
theorem clsByte_fields : ∀ (disp : Bool) (tag : BitVec 3),
    (clsByte disp tag).extractLsb' 0 3 = tag ∧ (clsByte disp tag).getLsbD 3 = disp ∧
    (clsByte disp tag).extractLsb' 4 4 = 0#4 := by
  decide

theorem inRtc3_iff (id : Half) : inRtc3 id = true ↔ 0x0100 ≤ id.toNat ∧ id.toNat < 0x1000 := by
  simp [inRtc3]

theorem inRtc1_iff (id : Half) : inRtc1 id = true ↔ 0x8000 ≤ id.toNat ∧ id.toNat < 0xC000 := by
  simp [inRtc1]

theorem inUdp_iff (id : Half) : inUdp id = true ↔ 0xC000 ≤ id.toNat ∧ id.toNat < 0xFC00 := by
  simp [inUdp]

theorem inFrag_iff (id : Half) : inFrag id = true ↔ 0xFF80 ≤ id.toNat ∧ id.toNat < 0xFF90 := by
  simp [inFrag]

/-- A field of an identifier as a number. -/
theorem extract_toNat (id : Half) (lo n : Nat) : (id.extractLsb' lo n).toNat = id.toNat / 2 ^ lo % 2 ^ n := by
  simp [BitVec.extractLsb'_toNat, Nat.shiftRight_eq_div_pow]

/-- The tag of a range classification, from the numeric ranges (R105). -/
theorem classifyRange_tag (id : Half) :
    (classifyRange id).tag =
      if 0x0100 ≤ id.toNat ∧ id.toNat < 0x1000 then 3#3
      else if 0x8000 ≤ id.toNat ∧ id.toNat < 0xC000 then 2#3
      else if 0xC000 ≤ id.toNat ∧ id.toNat < 0xFC00 then 4#3
      else if 0xFF80 ≤ id.toNat ∧ id.toNat < 0xFF90 then 5#3
      else 6#3 := by
  simp only [classifyRange, inRtc3_iff, inRtc1_iff, inUdp_iff, inFrag_iff]
  repeat' split
  all_goals rfl

/-- A range classification gives name index 0 (R40). -/
theorem classifyRange_nameIndex (id : Half) : (classifyRange id).nameIndex = 0 := by
  simp only [classifyRange]
  repeat' split
  all_goals rfl

/-- An id that stands in the table is classified by its index, whatever range it lies in. -/
theorem classify_of_named {t : List Half} {id : Half} {k : Nat} (hn : t.Nodup) (h : t[k]? = some id) :
    classify t id = .namedFrame (BitVec.ofNat 8 k) := by
  simp [classify, namedIndex_of_getElem? hn h]

/-- An id that does not stand in the table is classified by the ranges. -/
theorem classify_of_not_mem {t : List Half} {id : Half} (h : id ∉ t) : classify t id = classifyRange id := by
  simp [classify, namedIndex_eq_none.2 h]

end Sys2Proof.Machine
end

