-- ==== Sys2Proof/Laws/Codec.lean ====
section
/-! SUPPORT. What the safety sub-frame codec's shared operations do, byte by byte: descriptors and their lengths, the bytes
ENCODE packs, the CRC field and its parts. -/

namespace Sys2Proof.Machine

/-! ## Descriptors -/

theorem descriptorOf_dataLength (b : Byte) : (descriptorOf b).dataLength = (b.extractLsb' 4 4).toNat := rfl

theorem descriptorOf_seed (b : Byte) : (descriptorOf b).seed = if b.getLsbD 1 then .seed else .noSeed := rfl

/-- L of an ADESC or DESC byte, from its bits (R13). -/
theorem descriptorOf_frameLength (b : Byte) :
    (descriptorOf b).frameLength = (b.extractLsb' 4 4).toNat + 1 + if b.getLsbD 1 then 4 else 3 := by
  unfold Descriptor.frameLength
  rw [descriptorOf_dataLength, descriptorOf_seed]
  split <;> rfl

/-- The bound check of a DESC byte, from its bits (R136). -/
theorem descriptorOf_inBounds (b : Byte) :
    (descriptorOf b).inBounds = decide ((b.extractLsb' 4 4).toNat ≤ if b.getLsbD 1 then 13 else 12) := by
  unfold Descriptor.inBounds
  rw [descriptorOf_dataLength, descriptorOf_seed]
  split <;> rfl

/-- The ADESC byte LDDESC loads, from DESC's bits (R131). -/
theorem activeByte_descriptorOf :
    ∀ b : Byte, (descriptorOf b).activeByte = b.extractLsb' 4 4 ++ 0b10#2 ++ b.extractLsb' 0 2 := by
  decide

/-- The loaded byte describes the same descriptor as DESC. -/
theorem descriptorOf_activeByte : ∀ b : Byte, descriptorOf (descriptorOf b).activeByte = descriptorOf b := by
  decide

/-- A descriptor in bounds fits both buffers (R136). -/
theorem Descriptor.lengths_of_inBounds {d : Descriptor} (h : d.inBounds = true) :
    d.dataLength ≤ 13 ∧ d.frameLength ≤ 18 := by
  unfold Descriptor.inBounds at h
  unfold Descriptor.frameLength
  rcases hs : d.seed <;> simp [hs, SeedMode.maxLength, SeedMode.crcWidth] at h ⊢ <;> omega

/-! ## The CRC register's bytes -/

section Crc
variable (a b c d : Byte) (x : Quad)

@[simp] theorem joinCrc_byte3 : (joinCrc a b c d).extractLsb' 24 8 = a := by
  unfold joinCrc; ext i hi; simp; grind

@[simp] theorem joinCrc_byte2 : (joinCrc a b c d).extractLsb' 16 8 = b := by
  unfold joinCrc; ext i hi; simp; grind

@[simp] theorem joinCrc_byte1 : (joinCrc a b c d).extractLsb' 8 8 = c := by
  unfold joinCrc; ext i hi; simp; grind

@[simp] theorem joinCrc_byte0 : (joinCrc a b c d).extractLsb' 0 8 = d := by
  unfold joinCrc; ext i hi; simp; grind

/-- The four bytes of a value put together are the value. -/
theorem joinCrc_bytes : joinCrc (crcByte3 x) (crcByte2 x) (crcByte1 x) (crcByte0 x) = x := by
  unfold joinCrc crcByte3 crcByte2 crcByte1 crcByte0
  ext i hi; simp; grind

/-- The three low bytes under a zero byte. -/
theorem joinCrc_low_bytes :
    joinCrc 0x00 (crcByte2 x) (crcByte1 x) (crcByte0 x) = 0x00#8 ++ x.extractLsb' 0 24 := by
  unfold joinCrc crcByte2 crcByte1 crcByte0
  ext i hi; simp; grind

end Crc

/-! ## The bytes ENCODE packs -/

section Pack
variable {d : Descriptor} {data : Vector Byte 13} {flags : Byte} {crc : Quad} {frame : Vector Byte 18}

/-- FRAME[0..D-1] are the data bytes. -/
theorem packFrame_data (h : d.inBounds = true) {i : Nat} (hi : i < d.dataLength) :
    (packFrame d data flags crc frame)[i]? = data[i]? := by
  obtain ⟨h13, -⟩ := d.lengths_of_inBounds h
  rw [getElem?_eq_byteAt data (by omega)]
  unfold packFrame putCrc
  generalize d.dataLength = n at *
  cases d.seed <;> simp only [putByte_getElem?, copyBytes_getElem?] <;> grind

/-- FRAME[D] is the flag byte. -/
theorem packFrame_flags (h : d.inBounds = true) :
    (packFrame d data flags crc frame)[d.dataLength]? = some flags := by
  obtain ⟨h13, -⟩ := d.lengths_of_inBounds h
  unfold packFrame putCrc
  generalize d.dataLength = n at *
  cases d.seed <;> simp only [putByte_getElem?, copyBytes_getElem?] <;> grind

/-- The four CRC bytes under Seed. -/
theorem packFrame_crc_seed (h : d.inBounds = true) (hs : d.seed = .seed) :
    (packFrame d data flags crc frame)[d.dataLength + 1]? = some (crcByte3 crc) ∧
    (packFrame d data flags crc frame)[d.dataLength + 2]? = some (crcByte2 crc) ∧
    (packFrame d data flags crc frame)[d.dataLength + 3]? = some (crcByte1 crc) ∧
    (packFrame d data flags crc frame)[d.dataLength + 4]? = some (crcByte0 crc) := by
  obtain ⟨h13, -⟩ := d.lengths_of_inBounds h
  unfold packFrame putCrc
  generalize d.dataLength = n at *
  simp only [hs, putByte_getElem?, copyBytes_getElem?]
  grind

/-- The three CRC bytes under NoSeed. -/
theorem packFrame_crc_noSeed (h : d.inBounds = true) (hs : d.seed = .noSeed) :
    (packFrame d data flags crc frame)[d.dataLength + 1]? = some (crcByte2 crc) ∧
    (packFrame d data flags crc frame)[d.dataLength + 2]? = some (crcByte1 crc) ∧
    (packFrame d data flags crc frame)[d.dataLength + 3]? = some (crcByte0 crc) := by
  obtain ⟨h13, -⟩ := d.lengths_of_inBounds h
  unfold packFrame putCrc
  generalize d.dataLength = n at *
  simp only [hs, putByte_getElem?, copyBytes_getElem?]
  grind

/-- FRAME[L..17] keep what was in them (R144). -/
theorem packFrame_tail {i : Nat} (hi : d.frameLength ≤ i) :
    (packFrame d data flags crc frame)[i]? = frame[i]? := by
  unfold Descriptor.frameLength at hi
  unfold packFrame putCrc
  generalize d.dataLength = n at *
  rcases hs : d.seed <;> simp only [hs, SeedMode.crcWidth] at hi <;>
    simp only [putByte_getElem?, copyBytes_getElem?] <;> grind

end Pack

end Sys2Proof.Machine
end

