-- ==== Sys2Proof/Laws/Legal.lean ====
section
/-! SUPPORT. Every shared operation keeps a legal state legal: one lemma per operation. -/

namespace Sys2Proof.Machine.Legal

variable {s : State}

theorem withPending (h : Legal s) (events : List HostEvent) : Legal (s.withPending events) :=
  ⟨h.1, h.2, h.3, h.4, h.5, h.6, h.7, h.8, h.9, h.10, h.11⟩

theorem record (h : Legal s) (t : Transaction) : Legal (s.record t) :=
  ⟨h.1, h.2, h.3, h.4, h.5, h.6, h.7, h.8, h.9, h.10, h.11⟩

/-- Recording BADACC touches none of the hardwired bits. -/
theorem badAccess (h : Legal s) : Legal s.badAccess := by
  refine ⟨h.1, ?_, h.3, h.4, h.5, h.6, h.7, h.8, h.9, h.10, h.11⟩
  have := h.errAcc
  revert this
  simp only [State.badAccess_errAcc]
  generalize s.errAcc = x
  revert x; decide

/-- A code from 0 to 3 written to a STATUS below 4 leaves it below 4. -/
theorem setErr_le (x : Byte) (c : BitVec 3) (hx : x.toNat ≤ 3) (hc : c.toNat ≤ 3) : (setErr x c).toNat ≤ 3 := by
  have key : ∀ y : BitVec 2, ∀ c : BitVec 3, c.toNat ≤ 3 → (setErr (y.setWidth 8) c).toNat ≤ 3 := by decide
  have e : x = (x.setWidth 2).setWidth 8 := by
    apply BitVec.eq_of_toNat_eq
    simp
    omega
  rw [e]
  exact key _ c hc

theorem succeed (h : Legal s) : Legal s.succeed :=
  ⟨setErr_le _ _ h.1 (by decide), h.2, h.3, h.4, h.5, h.6, h.7, h.8, h.9, h.10, h.11⟩

theorem raise (h : Legal s) (e : CmdError) : Legal (s.raise e) := by
  refine ⟨setErr_le _ _ h.1 (by cases e <;> decide), ?_, h.3, h.4, h.5, h.6, h.7, h.8, h.9, h.10, h.11⟩
  have := h.errAcc
  revert this
  simp only [State.raise_errAcc]
  generalize s.errAcc = x
  cases e <;> (revert x; decide)

theorem withActive (h : Legal s) (b : Byte) (hr : b &&& 0x04#8 = 0) (hb : (descriptorOf b).inBounds = true) :
    Legal (s.withActive b) :=
  ⟨h.1, h.2, h.3, hr, hb, h.6, h.7, h.8, h.9, h.10, h.11⟩

/-- The byte CONS takes from a descriptor in bounds. -/
theorem frameLength_byte {d : Descriptor} (h : d.inBounds = true) : (BitVec.ofNat 8 d.frameLength).toNat ≤ 18 := by
  have := (d.lengths_of_inBounds h).2
  simp only [BitVec.toNat_ofNat]
  omega

theorem packFields (h : Legal s) : Legal (s.packFields (descriptorOf s.adesc)) :=
  ⟨h.1, h.2, h.3, h.4, h.5, frameLength_byte h.5, h.7, h.8, h.9, h.10, h.11⟩

theorem unpackFields (h : Legal s) : Legal (s.unpackFields (descriptorOf s.adesc)) :=
  ⟨h.1, h.2, h.3, h.4, h.5, frameLength_byte h.5, h.7, h.8, h.9, h.10, h.11⟩

/-- A write to a register stores no reserved bit (R175) and clears only bits of ERRACC (R27). -/
theorem writeReg (h : Legal s) (v : Byte) (r : RegName) : Legal (s.writeReg v r) := by
  cases r
  case errAcc =>
    refine ⟨h.1, ?_, h.3, h.4, h.5, h.6, h.7, h.8, h.9, h.10, h.11⟩
    have := h.errAcc
    show clearErrors s.errAcc v &&& _ = _
    unfold clearErrors
    rw [BitVec.and_assoc, BitVec.and_comm (~~~ _), ← BitVec.and_assoc, this]
    simp
  case desc =>
    refine ⟨h.1, h.2, ?_, h.4, h.5, h.6, h.7, h.8, h.9, h.10, h.11⟩
    show (v &&& 0xF3#8) &&& 0x0C#8 = 0
    revert v; decide
  case rcls =>
    refine ⟨h.1, h.2, h.3, h.4, h.5, h.6, h.7, h.8, ?_, h.10, h.11⟩
    show (v &&& 0x07#8) &&& 0xF8#8 = 0
    revert v; decide
  all_goals first
    | exact badAccess h
    | exact ⟨h.1, h.2, h.3, h.4, h.5, h.6, h.7, h.8, h.9, h.10, h.11⟩

end Sys2Proof.Machine.Legal
end

