-- ==== Sys2Proof/Laws/PerInstr.lean ====
section
/-! SUPPORT. Statements made instruction by instruction: the byte of a well-formed instruction fits the pattern of its own
row of spec/opcode_table.json and of no other row. -/

namespace Sys2Proof.Laws.FitsOwnRow

/-- The byte of `i` fits a row's pattern exactly when the row is `i`'s own. -/
def Statement (i : Instr) : Prop :=
  i.wellFormed = true → ∀ r ∈ opcodeTable, (r.fits (Sys2Proof.encode i) = true ↔ r.mnemonic = i.mnemonic)

theorem nop : Statement .nop := by unfold Statement; decide
theorem classify : Statement .classify := by unfold Statement; decide
theorem resolve : Statement .resolve := by unfold Statement; decide
theorem lddesc : Statement .lddesc := by unfold Statement; decide
theorem encode : Statement .encode := by unfold Statement; decide
theorem decode : Statement .decode := by unfold Statement; decide

theorem illegalOp6to7 (c : Byte) : Statement (.illegalOp6to7 c) := by
  unfold Statement; revert c; decide

theorem illegalOp8to15 (c : Byte) : Statement (.illegalOp8to15 c) := by
  unfold Statement; revert c; decide

theorem illegalRsvBit4 (c : Byte) : Statement (.illegalRsvBit4 c) := by
  unfold Statement; revert c; decide

theorem illegalRsvBit5 (c : Byte) : Statement (.illegalRsvBit5 c) := by
  unfold Statement; revert c; decide

theorem illegalRsvBit6 (c : Byte) : Statement (.illegalRsvBit6 c) := by
  unfold Statement; revert c; decide

theorem illegalRsvBit7 (c : Byte) : Statement (.illegalRsvBit7 c) := by
  unfold Statement; revert c; decide

end Sys2Proof.Laws.FitsOwnRow
end

