-- ==== Sys2Proof/Tests/Slice0.lean ====
section
/-! SUPPORT. The model's own tests. Expected values come from the spec: 95_test_vectors.md (vector ids in the comments),
opcode_table.json, and the rules named. Then one witness per statement with hypotheses. -/

namespace Sys2Proof.Tests

open Sys2Proof.Machine

/-- The reset state over an empty NAMED_TABLE, the start of every vector of 95_test_vectors.md that names no other. -/
def base : State := { State.reset with namedTable := [] }

/-- A field of the state a step or a command answers, if it answers one. -/
def resultOf {α : Type} (o : Host.Outcome State Fault Refusal) (f : State → α) : Option α :=
  match o with
  | .next s => some (f s)
  | .fault _ => none
  | .refused _ => none

/-! ## WellFormed refuses a byte of another row -/

theorem test_wf_refuses_op6to7 : Instr.wellFormed (.illegalOp6to7 0x05) = false := by decide
theorem test_wf_refuses_op8to15 : Instr.wellFormed (.illegalOp8to15 0x10) = false := by decide
theorem test_wf_refuses_rsvBit4 : Instr.wellFormed (.illegalRsvBit4 0x20) = false := by decide
theorem test_wf_refuses_rsvBit5 : Instr.wellFormed (.illegalRsvBit5 0x30) = false := by decide
theorem test_wf_refuses_rsvBit6 : Instr.wellFormed (.illegalRsvBit6 0x60) = false := by decide
theorem test_wf_refuses_rsvBit7 : Instr.wellFormed (.illegalRsvBit7 0xC0) = false := by decide

/-! ## Decoding, one byte of each row written out (opcode_table.json) -/

theorem test_decode_nop : decode 0b00000000#8 = .nop := by decide
theorem test_decode_classify : decode 0b00000001#8 = .classify := by decide
theorem test_decode_resolve : decode 0b00000010#8 = .resolve := by decide
theorem test_decode_lddesc : decode 0b00000011#8 = .lddesc := by decide
theorem test_decode_encode : decode 0b00000100#8 = .encode := by decide
theorem test_decode_decode : decode 0b00000101#8 = .decode := by decide
theorem test_decode_op6to7 : decode 0b00000110#8 = .illegalOp6to7 0x06 := by decide
theorem test_decode_op8to15 : decode 0b00001111#8 = .illegalOp8to15 0x0F := by decide
theorem test_decode_rsvBit4 : decode 0b00010001#8 = .illegalRsvBit4 0x11 := by decide
theorem test_decode_rsvBit5 : decode 0b10100000#8 = .illegalRsvBit5 0xA0 := by decide
theorem test_decode_rsvBit6 : decode 0b01001111#8 = .illegalRsvBit6 0x4F := by decide
theorem test_decode_rsvBit7 : decode 0b10000101#8 = .illegalRsvBit7 0x85 := by decide

/-- The table's word for DECODE through the fixed name. -/
theorem test_decodeTableWord : decodeTableWord 8 5 = some .decode ∧ decodeTableWord 16 5 = none := by decide

/-- Every byte fits exactly one row of the table: the rows overlap nowhere and leave nothing out. -/
theorem test_table_is_a_partition : ∀ c : Byte, (opcodeTable.filter (·.fits c)).length = 1 := by decide

/-! ## Commands -/

/-- V7.1: STATUS 0x02 and ERRACC 0x04, then NOP. -/
theorem test_nop :
    resultOf (exec .nop { base with status := 0x02, errAcc := 0x04 }) (fun s => (s.status, s.errAcc)) =
      some (0x00, 0x04) := by decide

/-- V7.2: byte 0x06. -/
theorem test_illegal_op6to7 :
    resultOf (memWrite 0x00 0x06 base) (fun s => (s.status, s.errAcc)) = some (0x03, 0x08) := by decide

/-- R177 with opcode_table.json's 00001xxx. -/
theorem test_illegal_op8to15 :
    resultOf (memWrite 0x00 0x08 base) (fun s => (s.status, s.errAcc)) = some (0x03, 0x08) := by decide

/-- V7.3: byte 0x11, whose low nibble alone would be CLASSIFY. -/
theorem test_illegal_rsvBit4 :
    resultOf (memWrite 0x00 0x11 base) (fun s => (s.status, s.cls)) = some (0x03, 0x00) := by decide

/-- R177 with opcode_table.json's xx10xxxx. -/
theorem test_illegal_rsvBit5 :
    resultOf (memWrite 0x00 0x23 base) (fun s => (s.status, s.adesc)) = some (0x03, 0x00) := by decide

/-- R177 with opcode_table.json's x100xxxx. -/
theorem test_illegal_rsvBit6 :
    resultOf (memWrite 0x00 0x40 base) (fun s => (s.status, s.errAcc)) = some (0x03, 0x08) := by decide

/-- V7.4: byte 0x85. -/
theorem test_illegal_rsvBit7 :
    resultOf (memWrite 0x00 0x85 base) (fun s => (s.status, s.errAcc)) = some (0x03, 0x08) := by decide

/-- V1.3 to V1.6, V1.9, V1.10, V1.12, V1.14, V1.16: the sides of the range bounds. -/
theorem test_classify_bounds :
    [0x0100#16, 0x0FFF#16, 0x1000#16, 0x7FFF#16, 0xBFFF#16, 0xC000#16, 0xFC00#16, 0xFF80#16, 0xFF90#16].map
      (fun id => resultOf (exec .classify { base with fidIn := id }) (·.cls)) =
    [some 0x0B, some 0x0B, some 0x06, some 0x06, some 0x0A, some 0x04, some 0x06, some 0x05, some 0x06] := by decide

/-- V2.5: the table wins the tag, and the routing bit follows the range. -/
theorem test_classify_named_in_range :
    resultOf (exec .classify { base with namedTable := [0x0020, 0x8001], fidIn := 0x8001 })
      (fun s => (s.cls, s.nidx)) = some (0x09, 0x01) := by decide

/-- V3.1, V3.2, V3.4, V3.5, V3.8: range classes, the Raw echo, and a name in an empty table. -/
theorem test_resolve_tags :
    [(0x02#8, 0x5555#16), (0x03#8, 0x1234#16), (0x05#8, 0xFFFF#16), (0x06#8, 0x1234#16), (0x01#8, 0x0000#16)].map
      (fun p => resultOf (exec .resolve { base with rcls := p.1, rarg := p.2 }) (fun s => (s.fout, s.rhit))) =
    [some (0x8000, 1), some (0x0100, 1), some (0xFF80, 1), some (0x1234, 0), some (0x0000, 0)] := by decide

/-- V3.9 to V3.12 on a table of two entries: below N the entry, at N and above 255 the echo. -/
theorem test_resolve_names :
    [0x0001#16, 0x0002#16, 0x0100#16].map
      (fun a => resultOf (exec .resolve { base with namedTable := [0x0020, 0xFEFE], rcls := 0x01, rarg := a })
        (fun s => (s.fout, s.rhit))) =
    [some (0xFEFE, 1), some (0x0002, 0), some (0x0100, 0)] := by decide

/-- V4.1, V4.8: loaded descriptors. -/
theorem test_lddesc_loads :
    [0x00#8, 0xD2#8].map (fun d => resultOf (exec .lddesc { base with desc := d }) (fun s => (s.adesc, s.status))) =
    [some (0x08, 0x00), some (0xDA, 0x00)] := by decide

/-- V4.4, V4.10: rejected descriptors keep the old fields with VALID cleared. -/
theorem test_lddesc_rejects :
    [(0xC8#8, 0xD0#8), (0xDB#8, 0xE2#8)].map
      (fun p => resultOf (exec .lddesc { base with adesc := p.1, desc := p.2 })
        (fun s => (s.adesc, s.status, s.errAcc))) =
    [some (0xC0, 0x01, 0x02), some (0xD3, 0x01, 0x02)] := by decide

/-- The state of V5.5 before ENCODE. -/
def fullStatusSeed : State :=
  { base with
    adesc := 0xDB
    data := #v[0x00, 0x01, 0x02, 0x03, 0x04, 0x05, 0x06, 0x07, 0x08, 0x09, 0x0A, 0x0B, 0x0C]
    flags := 0xFF
    crc := 0x12345678 }

/-- V5.5. -/
theorem test_encode_full :
    resultOf (exec .encode fullStatusSeed) (fun s => (s.frame, s.flen, s.cons)) =
      some (#v[0x00, 0x01, 0x02, 0x03, 0x04, 0x05, 0x06, 0x07, 0x08, 0x09, 0x0A, 0x0B, 0x0C, 0xFF, 0x12, 0x34, 0x56,
        0x78], 18, 18) := by decide

/-- V5.6: a shorter NoSeed frame over V5.5's bytes, the tail kept. -/
theorem test_encode_short_keeps_tail :
    resultOf (exec .encode { base with
        adesc := 0x28
        data := #v[0xAA, 0x55, 0, 0, 0, 0, 0, 0, 0, 0, 0, 0, 0]
        flags := 0x21
        crc := 0x00123456
        frame := #v[0x00, 0x01, 0x02, 0x03, 0x04, 0x05, 0x06, 0x07, 0x08, 0x09, 0x0A, 0x0B, 0x0C, 0xFF, 0x12, 0x34, 0x56,
          0x78] }) (fun s => (s.frame, s.flen)) =
      some (#v[0xAA, 0x55, 0x21, 0x12, 0x34, 0x56, 0x06, 0x07, 0x08, 0x09, 0x0A, 0x0B, 0x0C, 0xFF, 0x12, 0x34, 0x56,
        0x78], 6) := by decide

/-- V6.7: a NoSeed DECODE zeroes the top byte of CRC. -/
theorem test_decode_noSeed :
    resultOf (exec .decode { base with
        adesc := 0x08
        crc := 0xFFFFFFFF
        flen := 4
        frame := #v[0x5A, 0x01, 0x02, 0x03, 0, 0, 0, 0, 0, 0, 0, 0, 0, 0, 0, 0, 0, 0] })
      (fun s => (s.flags, s.crc, s.cons, s.status)) = some (0x5A, 0x00010203, 4, 0x00) := by decide

/-- V6.1 and V6.8: the priority of the errors, and FLEN one below L. -/
theorem test_decode_errors :
    [(0x00#8, 0#8), (0x0A#8, 4#8)].map
      (fun p => resultOf (exec .decode { base with adesc := p.1, flen := p.2 }) (fun s => (s.status, s.errAcc))) =
    [some (0x01, 0x02), some (0x02, 0x04)] := by decide

/-! ## Host access -/

/-- V7.6, V7.8, V7.15, V7.16: what a read returns and whether it records BADACC. -/
theorem test_reads :
    [0x00#7, 0x03#7, 0x51#7, 0x52#7].map (fun a => ((memRead a base).1, (memRead a base).2.errAcc)) =
    [(0x00, 0x00), (0x00, 0x20), (0x00, 0x00), (0x00, 0x20)] := by decide

/-- V7.7, V7.9, V7.12, V7.13, V7.14: refused writes and reserved bits. -/
theorem test_writes :
    [(0x01#7, 0xFF#8), (0x7F#7, 0x55#8), (0x04#7, 0xFF#8), (0x14#7, 0xFF#8), (0x2D#7, 0x01#8)].map
      (fun p => resultOf (memWrite p.1 p.2 base) (fun s => (s.status, s.errAcc, s.desc, s.rcls))) =
    [some (0x00, 0x20, 0x00, 0x00), some (0x00, 0x20, 0x00, 0x00), some (0x00, 0x00, 0xF3, 0x00),
      some (0x00, 0x00, 0x00, 0x07), some (0x00, 0x20, 0x00, 0x00)] := by decide

/-- V7.11: write-1-to-clear. -/
theorem test_errAcc_clear :
    resultOf (memWrite 0x02 0x02 { base with errAcc := 0x0A }) (·.errAcc) = some 0x08 := by decide

/-- A step runs the fetched byte and logs the transaction (R87). -/
theorem test_step_runs_fetch_word :
    resultOf (step ({ base with fidIn := 0x8000 }.withFetchWord 8 1)) (fun s => (s.cls, s.pending, s.busLog)) =
      some (0x0A, [], [⟨.W, 0x00, 0x01⟩]) := by decide

/-- R250, R251: the reset event clears registers and keeps the table. -/
theorem test_reset_event :
    resultOf (step { fullStatusSeed with namedTable := [0x0020], pending := [.reset] })
      (fun s => (s.adesc, s.crc, s.data, s.namedTable)) =
      some (0x00, 0x00000000, Vector.replicate 13 0x00, [0x0020]) := by decide

/-- R89: the expansion of SETCRC. -/
theorem test_setCrc_expands :
    (HostStmt.setCrc 0x00123456).expand =
      [.write 0x0C 0x00, .write 0x0D 0x12, .write 0x0E 0x34, .write 0x0F 0x56] := by decide

/-- R88: a read that returned another byte than its annotation says is told apart. -/
theorem test_annotation :
    HostStmt.annotationHolds (.rdExpect 0x12 0x0A) [⟨.R, 0x12, 0x0A⟩] = true ∧
    HostStmt.annotationHolds (.rdExpect 0x12 0x0A) [⟨.R, 0x12, 0x06⟩] = false := by decide

/-! ## Witnesses: states and operands that meet the hypotheses of each statement

Named witness_<statement>; a statement without hypotheses has none. -/

/-- The start of the vectors is a legal state. -/
theorem legal_start : Legal base := by
  constructor <;> first | decide | exact ⟨by decide, by decide⟩

/-- With another active descriptor byte and FLEN it is legal when the byte is. -/
theorem legal_base (b l : Byte) (hr : b &&& 0x04#8 = 0) (hb : (descriptorOf b).inBounds = true) :
    Legal { base with adesc := b, flen := l } :=
  have h := legal_start
  ⟨h.1, h.2, h.3, hr, hb, h.6, h.7, h.8, h.9, h.10, h.11⟩

theorem witness_DecodeOfEncodeIsTheInstruction :
    Instr.wellFormed .nop = true ∧ Instr.wellFormed (.illegalRsvBit7 0x8F) = true := by decide

theorem witness_CommandByteDecodesByRsvAndOp :
    (0x10#8).extractLsb' 4 4 ≠ 0#4 ∧ (0xFF#8).extractLsb' 4 4 ≠ 0#4 ∧
    (∀ k : Fin 16, (BitVec.ofNat 8 k.val).extractLsb' 4 4 = 0#4 ∧
      (BitVec.ofNat 8 k.val).extractLsb' 0 4 = BitVec.ofNat 4 k.val) ∧
    6 ≤ ((0x06#8).extractLsb' 0 4).toNat ∧ 6 ≤ ((0x0F#8).extractLsb' 0 4).toNat := by decide

theorem witness_EncodingFitsExactlyItsOwnTableRow :
    Instr.wellFormed (.illegalOp6to7 0x07) = true ∧ ⟨"NOP", 0xFF, 0x00⟩ ∈ opcodeTable := by decide

theorem witness_StepRunsTheDecodedCommand :
    ({ base with pending := [.write 0x00 0xFF] } : State).pending = .write 0x00 0xFF :: [] := rfl

theorem witness_NextStepRunsTheFetchWord : 255 < 256 := by decide

theorem witness_NothingHappensWithoutAHostAccess : base.pending = [] := rfl

theorem witness_TransactionsCarryTheBytes :
    ({ base with pending := [.read 0x7F] } : State).pending = .read 0x7F :: [] ∧
    ({ base with pending := [.write 0x00 0x04] } : State).pending = .write 0x00 0x04 :: [] := ⟨rfl, rfl⟩

theorem witness_RegisterMapIsOneToOne :
    (RegName.frame 17).address = some 0x51 ∧ locate 0x00 ≠ .reserved ∧ locate 0x51 ≠ .reserved := by decide

theorem witness_HostReadReturnsTheByteOfTheMap : locate 0x03 = .reserved ∧ locate 0x7F = .reserved := by decide

theorem witness_HostWriteFollowsTheMap :
    0x01#7 ∈ [0x01#7, 0x05#7, 0x08#7, 0x12#7, 0x13#7, 0x18#7, 0x19#7, 0x1A#7] ∧ locate 0x52 = .reserved := by decide

theorem witness_WrittenByteIsReadBackAndNothingElseMoves :
    0x17#7 ∈ [0x06#7, 0x07#7, 0x0C#7, 0x0D#7, 0x0E#7, 0x0F#7, 0x10#7, 0x11#7, 0x16#7, 0x17#7] ∧
    (0x20 ≤ (0x2C#7).toNat ∧ (0x2C#7).toNat ≤ 0x2C) ∧ (0x40 ≤ (0x51#7).toNat ∧ (0x51#7).toNat ≤ 0x51) ∧
    (0x20#7) ≠ 0x2C#7 := by decide

theorem witness_WriteToReadOnlyRegisterIsRefused :
    0x1A#7 ∈ [0x01#7, 0x05#7, 0x08#7, 0x12#7, 0x13#7, 0x18#7, 0x19#7, 0x1A#7] := by decide

/-- Each clause at both its ends, and the addresses just outside are not reserved. -/
theorem witness_AccessToReservedAddressIsRefused :
    [0x03, 0x09, 0x0B, 0x15, 0x1B, 0x1F, 0x2D, 0x3F, 0x52, 0x7F].all (fun n => locate (BitVec.ofNat 7 n) == .reserved) ∧
    [0x02, 0x04, 0x08, 0x0C, 0x14, 0x16, 0x1A, 0x20, 0x2C, 0x40, 0x51].all
      (fun n => locate (BitVec.ofNat 7 n) != .reserved) := by decide

theorem witness_CmdIssuesAndReadsZero : ∃ t, exec (decode 0x06) base = .next t := ⟨_, rfl⟩

theorem witness_BadAccessIsSetOnlyByARefusedAccess :
    ∃ s t, step s = .next t ∧ s.errAcc.getLsbD 5 = false ∧ t.errAcc.getLsbD 5 = true :=
  ⟨{ base with pending := [.read 0x03] }, _, rfl, by decide, by decide⟩

theorem witness_RefusedAccessOnlyRecordsBadAccess :
    HostEvent.refused (.read 0x7F) = true ∧ HostEvent.refused (.write 0x2D 0x01) = true ∧
    HostEvent.refused (.write 0x01 0x00) = true ∧ HostEvent.refused (.read 0x01) = false ∧
    ({ base with pending := [.read 0x7F] } : State).pending = .read 0x7F :: [] :=
  ⟨by decide, by decide, by decide, by decide, rfl⟩

theorem witness_StatusChangesOnlyByACommandOrReset :
    ∃ s t, step s = .next t ∧ t.status ≠ s.status :=
  ⟨{ base with pending := [.write 0x00 0x06] }, _, rfl, by decide⟩

theorem witness_ResetPutsEveryRegisterAtItsValue :
    ({ fullStatusSeed with pending := [.reset] } : State).pending = .reset :: [] := rfl

theorem witness_ResetLeavesTheHostSide :
    ({ fullStatusSeed with pending := [.reset, .read 0x01] } : State).pending = .reset :: [.read 0x01] := rfl

theorem witness_EveryStepKeepsTheStateLegal : ∃ s t, Legal s ∧ step s = .next t :=
  ⟨{ base with adesc := 0x28, flen := 6 }, _, legal_base 0x28 6 (by decide) (by decide), rfl⟩

theorem witness_NoStepChangesTheNamedTable :
    ∃ s t, step s = .next t ∧ s.namedTable = [0x0020] :=
  ⟨{ base with namedTable := [0x0020], pending := [.reset] }, _, rfl, rfl⟩

/-- Each clause: the register is changed by some command. -/
theorem witness_CommandsChangeOnlyTheRegistersTheyList :
    (∃ s t, exec .lddesc s = .next t ∧ t.adesc ≠ s.adesc) ∧
    (∃ s t, exec .classify s = .next t ∧ t.cls ≠ s.cls) ∧
    (∃ s t, exec .resolve s = .next t ∧ t.rhit ≠ s.rhit) ∧
    (∃ s t, exec .encode s = .next t ∧ t.frame ≠ s.frame ∧ t.cons ≠ s.cons) ∧
    (∃ s t, exec .decode s = .next t ∧ t.flags ≠ s.flags ∧ t.cons ≠ s.cons) := by
  refine ⟨⟨base, base.withActive 0x08, ?_, ?_⟩, ⟨base, _, rfl, ?_⟩, ⟨{ base with rcls := 2 }, _, rfl, ?_⟩,
    ⟨fullStatusSeed, (fullStatusSeed.packFields (descriptorOf 0xDB)).succeed, ?_, ?_, ?_⟩,
    ⟨{ fullStatusSeed with flen := 255 },
      (State.unpackFields { fullStatusSeed with flen := 255 } (descriptorOf 0xDB)).succeed, ?_, ?_, ?_⟩⟩
  all_goals first | decide | rfl

theorem witness_OnlyLddescOrResetChangesTheActiveDescriptor :
    ∃ s t, step s = .next t ∧ t.adesc ≠ s.adesc :=
  ⟨{ fullStatusSeed with pending := [.reset] }, _, rfl, by decide⟩

theorem witness_FailedCommandLeavesNoPartialResult :
    ∃ s t, exec .encode s = .next t ∧ t.status.extractLsb' 0 3 ≠ 0#3 :=
  ⟨base, base.raise .invalidDescriptor, rfl, by decide⟩

theorem witness_CommandReportsOneCodeAndSetsItsBit :
    (∃ s t, exec .nop s = .next t ∧ t.status.extractLsb' 0 3 = 0#3) ∧
    (∃ s t, exec (.illegalOp6to7 0x06) s = .next t ∧ t.status.extractLsb' 0 3 ≠ 0#3) :=
  ⟨⟨base, _, rfl, by decide⟩, ⟨base, _, rfl, by decide⟩⟩

theorem witness_ErrorBitsAreSticky :
    ∃ s t, step s = .next t ∧ s.errAcc.getLsbD 1 = true ∧ t.errAcc.getLsbD 1 = false :=
  ⟨{ base with errAcc := 0x02, pending := [.write 0x02 0x02] }, _, rfl, by decide, by decide⟩

theorem witness_IllegalCommandRecordsCodeThree : 6 ≤ (0x06#8).toNat ∧ 6 ≤ (0xFF#8).toNat := by decide

/-- A legal table with a match at its last index, and an identifier that is in no table. -/
theorem witness_ClassifyTagsTheIdentifier :
    TableLegal [0x0020#16, 0x8001#16] ∧ [0x0020#16, 0x8001#16][1]? = some 0x8001#16 ∧
    TableLegal [] ∧ (0xFF8F#16) ∉ ([] : List Half) :=
  ⟨⟨by decide, by decide⟩, by decide, ⟨by decide, by decide⟩, by decide⟩

/-- Every tag value falls under a clause, and a name index at N - 1 and at N under one each. -/
theorem witness_ResolveGivesTheIdentifierOrEchoes :
    (∀ k : BitVec 3, ((0b00000#5 ++ k).extractLsb' 0 3) = k) ∧
    (0x0001#16).toNat < [0x0020#16, 0x8001#16].length ∧ [0x0020#16, 0x8001#16].length ≤ (0x0002#16).toNat ∧
    (7#3) ∈ [0#3, 6#3, 7#3] := by decide

theorem witness_ResolvedRangeClassClassifiesBack :
    (0x05#8).extractLsb' 0 3 ∈ [2#3, 3#3, 4#3, 5#3] ∧ (0xFF80#16) ∉ ([] : List Half) := by decide

theorem witness_ResolvedNameClassifiesBack :
    ∃ s : State, TableLegal s.namedTable ∧ s.rcls.extractLsb' 0 3 = 1#3 ∧ s.rarg.toNat < s.namedTable.length :=
  ⟨{ base with namedTable := [0x0020, 0x8001], rcls := 0x01, rarg := 0x0001 }, ⟨by decide, by decide⟩, by decide,
    by decide⟩

theorem witness_RawIdentifierResolvesToItself :
    ∃ s t, exec .classify s = .next t ∧ t.cls.extractLsb' 0 3 = 6#3 :=
  ⟨{ base with fidIn := 0x1000 }, _, rfl, by decide⟩

/-- D at its bound and one above, in both seed modes. -/
theorem witness_LddescLoadsOrRejectsTheDescriptor :
    ((0xC0#8).extractLsb' 4 4).toNat ≤ (if (0xC0#8).getLsbD 1 then 13 else 12) ∧
    (if (0xD0#8).getLsbD 1 then 13 else 12) < ((0xD0#8).extractLsb' 4 4).toNat ∧
    ((0xD3#8).extractLsb' 4 4).toNat ≤ (if (0xD3#8).getLsbD 1 then 13 else 12) ∧
    (if (0xE3#8).getLsbD 1 then 13 else 12) < ((0xE3#8).extractLsb' 4 4).toNat := by decide

/-- VALID = 0, and legal states with the longest descriptor of each seed mode. -/
theorem witness_EncodeBuildsTheSubFrame :
    base.adesc.getLsbD 3 = false ∧
    ((0xDB#8).getLsbD 3 = true ∧ (0xDB#8).getLsbD 1 = true ∧ Legal { base with adesc := 0xDB, flen := 0 }) ∧
    ((0xC8#8).getLsbD 3 = true ∧ (0xC8#8).getLsbD 1 = false ∧ Legal { base with adesc := 0xC8, flen := 0 }) :=
  ⟨by decide, ⟨by decide, by decide, legal_base 0xDB 0 (by decide) (by decide)⟩,
    ⟨by decide, by decide, legal_base 0xC8 0 (by decide) (by decide)⟩⟩

theorem witness_EncodedBytesAreDataFlagsCrc :
    Legal { base with adesc := 0x0A, flen := 0 } ∧ (0x0A#8).getLsbD 3 = true :=
  ⟨legal_base 0x0A 0 (by decide) (by decide), by decide⟩

/-- FRAME[L] of the shortest frame, L = 4. -/
theorem witness_EncodeLeavesTheOtherAddresses :
    ∃ (s t : State) (a : Addr), Legal s ∧ s.adesc.getLsbD 3 = true ∧ exec .encode s = .next t ∧
      a ∉ [0x01#7, 0x07#7, 0x08#7] ∧
      ¬(0x40 ≤ a.toNat ∧
        a.toNat < 0x40 + ((s.adesc.extractLsb' 4 4).toNat + 1 + if s.adesc.getLsbD 1 then 4 else 3)) :=
  ⟨{ base with adesc := 0x08, flen := 0 },
    (State.packFields { base with adesc := 0x08, flen := 0 } (descriptorOf 0x08)).succeed,
    0x44, legal_base 0x08 0 (by decide) (by decide), by decide, rfl, by decide, by decide⟩

/-- VALID = 0; FLEN = L - 1 and FLEN = L for the longest descriptor of each seed mode. -/
theorem witness_DecodeParsesTheSubFrame :
    base.adesc.getLsbD 3 = false ∧
    ((0xDB#8).getLsbD 3 = true ∧
      (17#8).toNat < ((0xDB#8).extractLsb' 4 4).toNat + 1 + (if (0xDB#8).getLsbD 1 then 4 else 3)) ∧
    (((0xDB#8).extractLsb' 4 4).toNat + 1 + (if (0xDB#8).getLsbD 1 then 4 else 3) ≤ (18#8).toNat ∧
      Legal { base with adesc := 0xDB, flen := 18 }) ∧
    (((0xC8#8).extractLsb' 4 4).toNat + 1 + (if (0xC8#8).getLsbD 1 then 4 else 3) ≤ (16#8).toNat ∧
      Legal { base with adesc := 0xC8, flen := 16 }) :=
  ⟨by decide, by decide, ⟨by decide, legal_base 0xDB 18 (by decide) (by decide)⟩,
    ⟨by decide, legal_base 0xC8 16 (by decide) (by decide)⟩⟩

/-- DATA[D] for D = 2. -/
theorem witness_DecodeLeavesTheOtherAddresses :
    ∃ (s t : State) (a : Addr), exec .decode s = .next t ∧ t.status.extractLsb' 0 3 = 0#3 ∧
      a ∉ [0x01#7, 0x06#7, 0x08#7, 0x0C#7, 0x0D#7, 0x0E#7, 0x0F#7] ∧
      ¬(0x20 ≤ a.toNat ∧ a.toNat < 0x20 + (s.adesc.extractLsb' 4 4).toNat) :=
  ⟨{ base with adesc := 0x28, flen := 6 },
    (State.unpackFields { base with adesc := 0x28, flen := 6 } (descriptorOf 0x28)).succeed,
    0x22, rfl, by decide, by decide, by decide⟩

theorem witness_DirectionChangesNoByte :
    (∃ t, exec .encode fullStatusSeed = .next t) ∧ ∃ t, exec .decode { fullStatusSeed with flen := 18 } = .next t :=
  ⟨⟨(fullStatusSeed.packFields (descriptorOf 0xDB)).succeed, rfl⟩,
    ⟨(State.unpackFields { fullStatusSeed with flen := 18 } (descriptorOf 0xDB)).succeed, rfl⟩⟩

theorem witness_StagedDescriptorHasNoEffectOnTheCodec :
    (∃ t, exec .encode fullStatusSeed = .next t) ∧ ∃ t, exec .decode { fullStatusSeed with flen := 18 } = .next t :=
  witness_DirectionChangesNoByte

/-- Two states that differ in DATA[D] and in CRC[31:24], which a NoSeed ENCODE does not read. -/
theorem witness_EncodeDependsOnlyOnItsInputs :
    ∃ s s' t t' : State, Legal s ∧ exec .encode s = .next t ∧ exec .encode s' = .next t' ∧ s.adesc = s'.adesc ∧
      s.flags = s'.flags ∧ (∀ i, i < (s.adesc.extractLsb' 4 4).toNat → s.data[i]? = s'.data[i]?) ∧
      (s.adesc.getLsbD 1 = true → s.crc = s'.crc) ∧ s.crc.extractLsb' 0 24 = s'.crc.extractLsb' 0 24 ∧ s.crc ≠ s'.crc ∧
      s.adesc.getLsbD 3 = true := by
  refine ⟨{ base with adesc := 0x08, flen := 0 }, { base with adesc := 0x08, crc := 0xAA000000 },
    (State.packFields { base with adesc := 0x08, flen := 0 } (descriptorOf 0x08)).succeed,
    (State.packFields { base with adesc := 0x08, crc := 0xAA000000 } (descriptorOf 0x08)).succeed,
    legal_base 0x08 0 (by decide) (by decide), rfl, rfl, rfl, rfl, fun i hi => absurd hi (by simp), ?_, ?_, ?_, ?_⟩
  all_goals decide

/-- Two states that differ in CRC and DATA, which DECODE does not read. -/
theorem witness_DecodeDependsOnlyOnItsInputs :
    ∃ s s' t t' : State, Legal s ∧ exec .decode s = .next t ∧ exec .decode s' = .next t' ∧ s.adesc = s'.adesc ∧
      s.flen = s'.flen ∧ s.frame = s'.frame ∧ s.crc ≠ s'.crc ∧ t.status.extractLsb' 0 3 = 0#3 := by
  refine ⟨{ base with adesc := 0x28, flen := 6 }, { base with adesc := 0x28, flen := 6, crc := 0xAA000000 },
    (State.unpackFields { base with adesc := 0x28, flen := 6 } (descriptorOf 0x28)).succeed,
    (State.unpackFields { base with adesc := 0x28, flen := 6, crc := 0xAA000000 } (descriptorOf 0x28)).succeed,
    legal_base 0x28 6 (by decide) (by decide), rfl, rfl, rfl, rfl, rfl, ?_, ?_⟩
  all_goals decide

theorem witness_DecodeAfterEncodeGivesTheFieldsBack :
    Legal { base with adesc := 0xDB, flen := 0 } ∧ (0xDB#8).getLsbD 3 = true :=
  ⟨legal_base 0xDB 0 (by decide) (by decide), by decide⟩

theorem witness_EncodeAfterDecodeGivesTheFrameBack :
    Legal { base with adesc := 0xC8, flen := 16 } ∧ (0xC8#8).getLsbD 3 = true ∧
    ((0xC8#8).extractLsb' 4 4).toNat + 1 + (if (0xC8#8).getLsbD 1 then 4 else 3) ≤ (16#8).toNat :=
  ⟨legal_base 0xC8 16 (by decide) (by decide), by decide, by decide⟩

theorem witness_LongestFramesHaveTheSourcesLengths :
    ({ base with desc := 0xC0 } : State).desc = 0xC0#8 ∧ ({ base with desc := 0xD3 } : State).desc = 0xD3#8 :=
  ⟨rfl, rfl⟩

theorem witness_SettingPseudoInstructionsLoadTheirRegisters :
    ∀ p ∈ [HostStmt.setFid 0xFF8F, .setRarg 0x1234, .setCrc 0x00123456, .setDesc .status .seed 13, .setRcls 7, .clrErr,
      .wrData 12 0x0C, .wrFrame 17 0xEF],
      ({ base with pending := p.expand } : State).pending = p.expand ++ [] := by decide

theorem witness_WideReadGivesHighThenLowByte :
    ({ base with pending := (HostStmt.rd16 .fout).expand } : State).pending = (HostStmt.rd16 .fout).expand ++ [] := rfl

end Sys2Proof.Tests
end

section
/-! SUPPORT. Proofs about the registers as the host sees them (spec/10_state.md). -/

namespace Sys2Proof.Machine

/-! ## CMD on the host port -/

theorem locate_cmd : locate 0x00 = .cmd := locate_eq_cmd.mpr rfl

/-- A write to CMD is the whole of the command it decodes to (R25, R172). -/
theorem memWrite_cmd (c : Byte) (s : State) : memWrite 0x00 c s = exec (Sys2Proof.decode c) s := by
  unfold memWrite
  rw [locate_cmd]

/-- A read of CMD gives 0x00 in every state and has no side effect: nothing is stored there (R25). -/
theorem memRead_cmd (s : State) : memRead 0x00 s = (0x00, s) := by
  have hread : locate 0x00 ≠ .reserved := by rw [locate_cmd]; decide
  have hzero : s.byteOf 0x00 = 0x00 := congrArg s.readReg locate_cmd
  rw [memRead_of_ne_reserved hread, hzero]

/-- Settles O18: the write is the command, and a read of CMD gives 0x00 in any state, so in the one after it too. -/
theorem cmdIssuesAndReadsZero : Obligations.CmdIssuesAndReadsZero :=
  fun s c => ⟨memWrite_cmd c s, memRead_cmd s, fun t _ => memRead_cmd t⟩

end Sys2Proof.Machine
end

section
/-! SUPPORT. Proofs about the decoder of the command byte (spec/30_encoding.md R80, R81, R85). -/

namespace Sys2Proof

/-! ## The two fields of a command byte and what they decode to -/

/-- RSV and OP make up the whole byte (R80). -/
theorem commandRsv_append_commandOp (c : Byte) : commandRsv c ++ commandOp c = c :=
  (BitVec.extractLsb'_append_extractLsb'_eq_extractLsb' rfl).trans BitVec.extractLsb'_eq_self

/-- With RSV zero the decode depends on OP alone. -/
theorem decode_eq_of_fields {c : Byte} {op : BitVec 4} (hrsv : commandRsv c = 0#4) (hop : commandOp c = op) :
    decode c = decode (0#4 ++ op) := by
  rw [← hrsv, ← hop, commandRsv_append_commandOp]

theorem decodeReserved_illegal (c : Byte) : (decodeReserved c).illegal = true := by
  unfold decodeReserved
  split_ifs <;> rfl

theorem decode_illegal_of_commandRsv_ne_zero {c : Byte} (hrsv : commandRsv c ≠ 0#4) : (decode c).illegal = true := by
  have hdecode : decode c = decodeReserved c := if_pos hrsv
  rw [hdecode]
  exact decodeReserved_illegal c

/-- An OP that names no command makes the byte illegal, whatever RSV holds. -/
theorem decode_illegal_of_six_le_commandOp {c : Byte} (hop : 6 ≤ (commandOp c).toNat) : (decode c).illegal = true := by
  unfold decode
  split
  case isTrue => exact decodeReserved_illegal c
  case isFalse =>
    split
    case h_7 | h_8 | h_9 => rfl
    all_goals omega

/-- Settles O3: a nonzero RSV and an OP from 6 on are illegal by themselves; with RSV zero, each of the six other OP
values fixes the whole byte, which the decoder evaluates. -/
theorem commandByteDecodesByRsvAndOp : Obligations.CommandByteDecodesByRsvAndOp :=
  fun _ => ⟨decode_illegal_of_commandRsv_ne_zero, fun hrsv =>
    ⟨decode_eq_of_fields hrsv, decode_eq_of_fields hrsv, decode_eq_of_fields hrsv, decode_eq_of_fields hrsv,
      decode_eq_of_fields hrsv, decode_eq_of_fields hrsv, decode_illegal_of_six_le_commandOp⟩⟩

end Sys2Proof
end

section
/-! SUPPORT. Proofs about the commands CLASSIFY and RESOLVE (spec/40_classifier.md R105, R110, R114, R120, R121). -/

namespace Sys2Proof.Machine

/-- A command that succeeds clears STATUS[2:0] as its last write. -/
theorem succeed_eq (s : State) : s.succeed = { s with status := s.status &&& 0xF8#8 } :=
  congrArg (fun st => { s with status := st }) (setErr_zero s.status)

/-! ## CLASSIFY -/

/-- RTCDISP as a statement about the numeric ranges (R114). -/
theorem rtcdisp_iff (id : Half) :
    rtcdisp id = true ↔ (0x8000 ≤ id.toNat ∧ id.toNat < 0xC000) ∨ (0x0100 ≤ id.toNat ∧ id.toNat < 0x1000) := by
  rw [rtcdisp, Bool.or_eq_true, inRtc1_iff, inRtc3_iff]

/-- An index of a table that R8 admits fits NIDX. -/
theorem TableLegal.nameIndex_toNat {table : List Half} {id : Half} {k : Nat} (hlegal : TableLegal table)
    (hk : table[k]? = some id) : (TransportClass.namedFrame (BitVec.ofNat 8 k)).nameIndex.toNat = k := by
  obtain ⟨hlt, -⟩ := List.getElem?_eq_some_iff.1 hk
  exact (BitVec.toNat_ofNat k 8).trans (Nat.mod_eq_of_lt (hlt.trans_le hlegal.1))

section Classify
variable {s t : State}

theorem exec_classify_eq (h : exec .classify s = .next t) :
    t = (s.withClass (rtcdisp s.fidIn) (classify s.namedTable s.fidIn)).succeed :=
  (Host.Outcome.next.inj h).symm

/-- CLASSIFY writes CLS, NIDX and STATUS.ERR, and nothing else. -/
theorem exec_classify_frame (h : exec .classify s = .next t) :
    t = { s with cls := t.cls, nidx := t.nidx, status := s.status &&& 0xF8#8 } := by
  rw [exec_classify_eq h, succeed_eq]
  rfl

/-- CLS[2:0] is the tag of the classification of FID_IN. -/
theorem exec_classify_tag (h : exec .classify s = .next t) :
    t.cls.extractLsb' 0 3 = (classify s.namedTable s.fidIn).tag := by
  rw [exec_classify_eq h]
  exact (clsByte_fields _ _).1

theorem exec_classify_nidx (h : exec .classify s = .next t) :
    t.nidx = (classify s.namedTable s.fidIn).nameIndex := by
  rw [exec_classify_eq h]
  rfl

/-- CLS[3] is the routing bit of FID_IN; the table is no part of it (R116). -/
theorem exec_classify_disp (h : exec .classify s = .next t) : t.cls.getLsbD 3 = rtcdisp s.fidIn := by
  rw [exec_classify_eq h]
  exact (clsByte_fields _ _).2.1

theorem exec_classify_upper (h : exec .classify s = .next t) : t.cls.extractLsb' 4 4 = 0#4 := by
  rw [exec_classify_eq h]
  exact (clsByte_fields _ _).2.2

end Classify

/-- Settles O37: a table entry equal to FID_IN is the classification with its index, which fits NIDX; without one the
ranges decide; the routing bit and the frame hold on either path. -/
theorem classifyTagsTheIdentifier : Obligations.ClassifyTagsTheIdentifier := by
  refine ⟨rfl, fun s hlegal => ?_⟩
  obtain ⟨t, ht⟩ := exec_answers .classify s
  refine ⟨t, ht, exec_classify_frame ht, fun k hk => ?named, fun hid => ?range, ?disp, exec_classify_upper ht⟩
  case named =>
    rw [exec_classify_tag ht, exec_classify_nidx ht, classify_of_named hlegal.2 hk]
    exact ⟨rfl, hlegal.nameIndex_toNat hk⟩
  case range =>
    rw [exec_classify_tag ht, exec_classify_nidx ht, classify_of_not_mem hid]
    exact ⟨classifyRange_nameIndex s.fidIn, classifyRange_tag s.fidIn⟩
  case disp => rw [exec_classify_disp ht, rtcdisp_iff]

/-! ## RESOLVE -/

/-- Tag 1 with an index below N gives the entry. -/
theorem resolve_named {table : List Half} {arg : Half} (harg : arg.toNat < table.length) :
    resolve table 1 arg = (table[arg.toNat], true) := by
  simp [resolve, harg]

/-- Tag 1 with an index from N on counts as unrecognised (R121). -/
theorem resolve_named_of_length_le {table : List Half} {arg : Half} (harg : table.length ≤ arg.toNat) :
    resolve table 1 arg = (arg, false) := by
  simp [resolve, harg]

/-- The tags NONE, Raw and 7 name no class to resolve (R121). -/
theorem resolve_unrecognised (table : List Half) (arg : Half) {tag : BitVec 3} (htag : tag ∈ [0#3, 6#3, 7#3]) :
    resolve table tag arg = (arg, false) := by
  simp only [List.mem_cons, List.not_mem_nil, or_false] at htag
  rcases htag with rfl | rfl | rfl <;> rfl

section Resolve
variable {s t : State}

theorem exec_resolve_eq (h : exec .resolve s = .next t) :
    t = (s.withResolved (resolve s.namedTable (classOperand s.rcls) s.rarg).1
      (resolve s.namedTable (classOperand s.rcls) s.rarg).2).succeed :=
  (Host.Outcome.next.inj h).symm

/-- RESOLVE writes FOUT, RHIT and STATUS.ERR, and nothing else. -/
theorem exec_resolve_frame (h : exec .resolve s = .next t) :
    t = { s with fout := t.fout, rhit := t.rhit, status := s.status &&& 0xF8#8 } := by
  rw [exec_resolve_eq h, succeed_eq]
  rfl

/-- The bytes of RESOLVE's result, for the tag that RCLS holds. -/
theorem exec_resolve_result {tag : BitVec 3} {v : Half} {hit : Bool} (h : exec .resolve s = .next t)
    (htag : s.rcls.extractLsb' 0 3 = tag) (hres : resolve s.namedTable tag s.rarg = (v, hit)) :
    t.fout = v ∧ t.rhit = 0#7 ++ BitVec.ofBool hit := by
  have hoperand : classOperand s.rcls = tag := htag
  rw [exec_resolve_eq h, hoperand, hres]
  exact ⟨rfl, rfl⟩

end Resolve

/-- Settles O38: one equation of `resolve` for each kind of tag, read off FOUT and RHIT. -/
theorem resolveGivesTheIdentifierOrEchoes : Obligations.ResolveGivesTheIdentifierOrEchoes := by
  refine ⟨rfl, fun s => ?_⟩
  obtain ⟨t, ht⟩ := exec_answers .resolve s
  refine ⟨t, ht, exec_resolve_frame ht, fun htag harg => ?named,
    fun htag harg => exec_resolve_result ht htag (resolve_named_of_length_le harg),
    fun htag => exec_resolve_result ht htag rfl, fun htag => exec_resolve_result ht htag rfl,
    fun htag => exec_resolve_result ht htag rfl, fun htag => exec_resolve_result ht htag rfl,
    fun htag => exec_resolve_result ht rfl (resolve_unrecognised _ _ htag)⟩
  case named =>
    obtain ⟨hfout, hrhit⟩ := exec_resolve_result ht htag (resolve_named harg)
    exact ⟨by rw [hfout, List.getElem?_eq_getElem harg], hrhit⟩

end Sys2Proof.Machine
end

section
/-! SUPPORT. Proofs about the safety codec's commands LDDESC, ENCODE and DECODE (spec/41_safety_codec.md R131, R134,
R140 to R144, R150, R152, R153, R162). -/

namespace Sys2Proof.Machine

/-! ## Recorded errors -/

/-- InvalidDescriptor is code 1 and ERRACC bit 1 (R200, R201). -/
theorem raise_invalidDescriptor (s : State) : s.raise .invalidDescriptor =
    { s with status := (s.status &&& 0xF8#8) ||| 0x01#8, errAcc := s.errAcc ||| 0x02#8 } := rfl

/-- TruncatedFrame is code 2 and ERRACC bit 2 (R200, R201). -/
theorem raise_truncatedFrame (s : State) : s.raise .truncatedFrame =
    { s with status := (s.status &&& 0xF8#8) ||| 0x02#8, errAcc := s.errAcc ||| 0x04#8 } := rfl

/-! ## Descriptors -/

theorem descriptorOf_seed_of_set {b : Byte} (hseed : b.getLsbD 1 = true) : (descriptorOf b).seed = .seed := by
  rw [descriptorOf_seed, if_pos hseed]

theorem descriptorOf_seed_of_clear {b : Byte} (hseed : b.getLsbD 1 = false) : (descriptorOf b).seed = .noSeed := by
  rw [descriptorOf_seed, hseed]
  rfl

theorem Descriptor.frameLength_of_seed {d : Descriptor} (hseed : d.seed = .seed) :
    d.frameLength = d.dataLength + 5 := by
  rw [Descriptor.frameLength, hseed]
  rfl

theorem Descriptor.frameLength_of_noSeed {d : Descriptor} (hseed : d.seed = .noSeed) :
    d.frameLength = d.dataLength + 4 := by
  rw [Descriptor.frameLength, hseed]
  rfl

/-- The data bytes end inside the frame. -/
theorem Descriptor.dataLength_lt_frameLength (d : Descriptor) : d.dataLength < d.frameLength := by
  unfold Descriptor.frameLength
  omega

/-- The byte LDDESC loads has VALID set (R131). -/
theorem validBit_activeByte : ∀ b : Byte, validBit (descriptorOf b).activeByte = true := by
  decide

/-- L of a descriptor in bounds fits FLEN and CONS. -/
theorem Descriptor.frameLength_toNat {d : Descriptor} (hd : d.inBounds = true) :
    (BitVec.ofNat 8 d.frameLength).toNat = d.frameLength := by
  obtain ⟨-, hframe⟩ := d.lengths_of_inBounds hd
  rw [BitVec.toNat_ofNat]
  omega

/-! ## LDDESC -/

section Lddesc
variable {s : State}

theorem exec_lddesc_of_inBounds (hd : (descriptorOf s.desc).inBounds = true) :
    exec .lddesc s = .next (s.withActive (descriptorOf s.desc).activeByte).succeed :=
  if_pos hd

theorem exec_lddesc_of_not_inBounds (hd : ¬ (descriptorOf s.desc).inBounds = true) :
    exec .lddesc s = .next ((s.withActive (clearValid s.adesc)).raise .invalidDescriptor) :=
  if_neg hd

end Lddesc

/-- Settles O42: the bound check on DESC's bits selects the branch, and each branch is one write of ADESC and then
the end of the command. -/
theorem lddescLoadsOrRejectsTheDescriptor : Obligations.LddescLoadsOrRejectsTheDescriptor := by
  refine ⟨rfl, fun s => ?_⟩
  have hbound : (descriptorOf s.desc).inBounds = true ↔
      (s.desc.extractLsb' 4 4).toNat ≤ if s.desc.getLsbD 1 then 13 else 12 := by
    rw [descriptorOf_inBounds, decide_eq_true_iff]
  refine ⟨fun hle => ?loads, fun hlt => ?rejects⟩
  case loads =>
    rw [exec_lddesc_of_inBounds (hbound.mpr hle), succeed_eq, activeByte_descriptorOf]
    rfl
  case rejects =>
    rw [exec_lddesc_of_not_inBounds (mt hbound.mp (Nat.not_le.mpr hlt)), raise_invalidDescriptor]
    rfl

/-! ## ENCODE -/

section Encode
variable {s : State}

theorem exec_encode_of_valid (hvalid : validBit s.adesc = true) :
    exec .encode s = .next (s.packFields (descriptorOf s.adesc)).succeed :=
  if_pos hvalid

theorem exec_encode_of_invalid (hvalid : validBit s.adesc = false) :
    exec .encode s = .next (s.raise .invalidDescriptor) :=
  if_neg (Bool.eq_false_iff.mp hvalid)

/-- A successful ENCODE writes FRAME, FLEN, CONS and STATUS.ERR, and nothing else (R140). -/
theorem packFields_succeed_eq (d : Descriptor) : (s.packFields d).succeed =
    { s with
      frame := packFrame d s.data s.flags s.crc s.frame
      flen := BitVec.ofNat 8 d.frameLength
      cons := BitVec.ofNat 8 d.frameLength
      status := s.status &&& 0xF8#8 } := by
  rw [succeed_eq]
  rfl

end Encode

/-- Settles O43: without VALID the command only raises; with VALID the bytes of FRAME are those of `packFrame`, and a
legal state's descriptor is in bounds, so that all of them lie in the buffer. -/
theorem encodeBuildsTheSubFrame : Obligations.EncodeBuildsTheSubFrame := by
  refine ⟨rfl, fun s => ⟨fun hvalid => (exec_encode_of_invalid hvalid).trans (congrArg _ (raise_invalidDescriptor s)),
    fun hvalid hlegal => ?_⟩⟩
  have hd := hlegal.adescBounds
  have hlength := Descriptor.frameLength_toNat hd
  rw [← descriptorOf_frameLength]
  exact ⟨_, (exec_encode_of_valid hvalid).trans (congrArg _ (packFields_succeed_eq _)), rfl, hlength, hlength,
    (Descriptor.lengths_of_inBounds hd).2, fun i hi => packFrame_data hd hi, packFrame_flags hd,
    fun hseed => packFrame_crc_seed hd (descriptorOf_seed_of_set hseed),
    fun hseed => packFrame_crc_noSeed hd (descriptorOf_seed_of_clear hseed), fun i hi => packFrame_tail hi⟩

/-! ## The lengths after LDDESC and ENCODE -/

/-- After LDDESC of a staged descriptor in bounds, ENCODE writes its L into CONS and FLEN (R142). -/
theorem encode_after_lddesc_lengths {s : State} {b : Byte} {l : Nat} (hdesc : s.desc = b)
    (hd : (descriptorOf b).inBounds = true) (hl : (descriptorOf b).frameLength = l) :
    ∃ t u, exec .lddesc s = .next t ∧ exec .encode t = .next u ∧
      u.cons = BitVec.ofNat 8 l ∧ u.flen = BitVec.ofNat 8 l := by
  subst hdesc hl
  refine ⟨_, _, exec_lddesc_of_inBounds hd, exec_encode_of_valid (validBit_activeByte s.desc), ?_⟩
  simp [descriptorOf_activeByte]

/-- Settles O54: both descriptors are in bounds, and their L is 16 and 18. -/
theorem longestFramesHaveTheSourcesLengths : Obligations.LongestFramesHaveTheSourcesLengths :=
  fun _ => ⟨fun hdesc => encode_after_lddesc_lengths hdesc (by decide) rfl,
    fun hdesc => encode_after_lddesc_lengths hdesc (by decide) rfl⟩

/-! ## DECODE -/

section Decode
variable {s : State}

theorem exec_decode_of_invalid (hvalid : validBit s.adesc = false) :
    exec .decode s = .next (s.raise .invalidDescriptor) :=
  if_neg (Bool.eq_false_iff.mp hvalid)

/-- VALID is checked before the length (R150). -/
theorem exec_decode_of_short (hvalid : validBit s.adesc = true)
    (hshort : s.flen.toNat < (descriptorOf s.adesc).frameLength) :
    exec .decode s = .next (s.raise .truncatedFrame) :=
  (if_pos hvalid).trans (if_pos hshort)

theorem exec_decode_of_complete (hvalid : validBit s.adesc = true)
    (hcomplete : (descriptorOf s.adesc).frameLength ≤ s.flen.toNat) :
    exec .decode s = .next (s.unpackFields (descriptorOf s.adesc)).succeed :=
  (if_pos hvalid).trans (if_neg (Nat.not_lt.mpr hcomplete))

/-- A successful DECODE writes DATA, FLAGS, CRC, CONS and STATUS.ERR, and nothing else (R150, R153). -/
theorem unpackFields_succeed_eq (d : Descriptor) : (s.unpackFields d).succeed =
    { s with
      data := copyBytes s.frame d.dataLength s.data
      flags := byteAt s.frame d.dataLength
      crc := takeCrc d.seed (d.dataLength + 1) s.frame
      cons := BitVec.ofNat 8 d.frameLength
      status := s.status &&& 0xF8#8 } := by
  rw [succeed_eq]
  rfl

end Decode

section Unpack
variable {m n : Nat} {src : Vector Byte m} {dst : Vector Byte n} {k i : Nat}

theorem copyBytes_getElem?_of_lt (hi : i < k) (hsrc : k ≤ m) (hdst : k ≤ n) :
    (copyBytes src k dst)[i]? = src[i]? := by
  rw [copyBytes_getElem?, if_pos ⟨hi, hi.trans_le hdst⟩, getElem?_eq_byteAt src (hi.trans_le hsrc)]

theorem copyBytes_getElem?_of_ge (hi : k ≤ i) : (copyBytes src k dst)[i]? = dst[i]? := by
  rw [copyBytes_getElem?, if_neg fun h => absurd h.1 (Nat.not_lt.mpr hi)]

end Unpack

section TakeCrc
variable {d : Descriptor} {frame : Vector Byte 18}

/-- Under Seed the four bytes of CRC are those after the flag byte, the most significant first (R150). -/
theorem takeCrc_seed (hd : d.inBounds = true) (hseed : d.seed = .seed) :
    frame[d.dataLength + 1]? = some ((takeCrc d.seed (d.dataLength + 1) frame).extractLsb' 24 8) ∧
    frame[d.dataLength + 2]? = some ((takeCrc d.seed (d.dataLength + 1) frame).extractLsb' 16 8) ∧
    frame[d.dataLength + 3]? = some ((takeCrc d.seed (d.dataLength + 1) frame).extractLsb' 8 8) ∧
    frame[d.dataLength + 4]? = some ((takeCrc d.seed (d.dataLength + 1) frame).extractLsb' 0 8) := by
  have hframe := (d.lengths_of_inBounds hd).2
  rw [Descriptor.frameLength_of_seed hseed] at hframe
  simp only [hseed, takeCrc, joinCrc_byte3, joinCrc_byte2, joinCrc_byte1, joinCrc_byte0]
  refine ⟨?_, ?_, ?_, ?_⟩ <;> exact getElem?_eq_byteAt frame (by omega)

/-- Under NoSeed CRC[31:24] is 0, and the three bytes below it are those after the flag byte (R152). -/
theorem takeCrc_noSeed (hd : d.inBounds = true) (hseed : d.seed = .noSeed) :
    (takeCrc d.seed (d.dataLength + 1) frame).extractLsb' 24 8 = 0x00#8 ∧
    frame[d.dataLength + 1]? = some ((takeCrc d.seed (d.dataLength + 1) frame).extractLsb' 16 8) ∧
    frame[d.dataLength + 2]? = some ((takeCrc d.seed (d.dataLength + 1) frame).extractLsb' 8 8) ∧
    frame[d.dataLength + 3]? = some ((takeCrc d.seed (d.dataLength + 1) frame).extractLsb' 0 8) := by
  have hframe := (d.lengths_of_inBounds hd).2
  rw [Descriptor.frameLength_of_noSeed hseed] at hframe
  simp only [hseed, takeCrc, joinCrc_byte3, joinCrc_byte2, joinCrc_byte1, joinCrc_byte0]
  refine ⟨rfl, ?_, ?_, ?_⟩ <;> exact getElem?_eq_byteAt frame (by omega)

end TakeCrc

/-- Settles O46: VALID and then FLEN select the branch; on the last one each field is read at an index below L, and a
legal state's L is at most 18. -/
theorem decodeParsesTheSubFrame : Obligations.DecodeParsesTheSubFrame := by
  refine ⟨rfl, fun s => ?_⟩
  dsimp only
  rw [← descriptorOf_frameLength]
  refine ⟨fun hvalid => (exec_decode_of_invalid hvalid).trans (congrArg _ (raise_invalidDescriptor s)),
    fun hvalid hshort => (exec_decode_of_short hvalid hshort).trans (congrArg _ (raise_truncatedFrame s)),
    fun hvalid hcomplete hlegal => ?_⟩
  have hd := hlegal.adescBounds
  obtain ⟨hdata, hframe⟩ := Descriptor.lengths_of_inBounds hd
  have hflags := (Descriptor.dataLength_lt_frameLength _).trans_le hframe
  exact ⟨_, (exec_decode_of_complete hvalid hcomplete).trans (congrArg _ (unpackFields_succeed_eq _)), rfl,
    Descriptor.frameLength_toNat hd, fun i hi => copyBytes_getElem?_of_lt hi (hdata.trans (by decide)) hdata,
    fun i hi => copyBytes_getElem?_of_ge hi, getElem?_eq_byteAt s.frame hflags,
    fun hseed => takeCrc_seed hd (descriptorOf_seed_of_set hseed),
    fun hseed => takeCrc_noSeed hd (descriptorOf_seed_of_clear hseed)⟩

end Sys2Proof.Machine
end

section
/-! SUPPORT. Proofs about host reads and writes by the register map (spec/42_control.md R170, R171, R173 to R175, with
the reserved addresses of spec/10_state.md R47). -/

namespace Sys2Proof.Machine

/-! ## An access by what stands at the address -/

section Access
variable {a : Addr} {r : RegName}

theorem memRead_of_locate (ha : locate a = r) (hr : r ≠ .reserved) (s : State) : memRead a s = (s.readReg r, s) := by
  subst ha
  exact memRead_of_ne_reserved hr s

theorem memWrite_of_locate (ha : locate a = r) (hr : r ≠ .cmd) (v : Byte) (s : State) :
    memWrite a v s = .next (s.writeReg v r) := by
  subst ha
  unfold memWrite
  split
  · contradiction
  · rfl

theorem memRead_of_reserved (ha : locate a = .reserved) (s : State) : memRead a s = (0x00, s.badAccess) := by
  unfold memRead
  rw [ha]

/-- The access column of R21 says which registers refuse a host write (R173, R174). -/
theorem writeReg_of_refused (hr : r.access = .readOnly ∨ r.access = .reserved) (v : Byte) (s : State) :
    s.writeReg v r = s.badAccess := by
  cases r
  case status | adesc | cons | cls | nidx | foutH | foutL | rhit | reserved => rfl
  all_goals simp [RegName.access] at hr

theorem memWrite_of_refused (ha : (locate a).access = .readOnly ∨ (locate a).access = .reserved) (v : Byte)
    (s : State) : memWrite a v s = .next s.badAccess := by
  have hcmd : locate a ≠ .cmd := by
    intro h
    simp [h, RegName.access] at ha
  rw [memWrite_of_locate rfl hcmd, writeReg_of_refused ha]

end Access

/-! ## Where the buffers and the refused accesses stand -/

theorem locate_data : ∀ i : Fin 13, locate (0x20 + BitVec.ofNat 7 i.val) = .data i := by decide

theorem locate_frame : ∀ i : Fin 18, locate (0x40 + BitVec.ofNat 7 i.val) = .frame i := by decide

/-- The read-only registers of R21 by address. -/
theorem access_eq_readOnly_iff : ∀ a : Addr, (locate a).access = .readOnly ↔
    a ∈ [0x01#7, 0x05#7, 0x08#7, 0x12#7, 0x13#7, 0x18#7, 0x19#7, 0x1A#7] := by decide

/-- The reserved addresses of R47 by range. -/
theorem locate_eq_reserved_iff : ∀ a : Addr, locate a = .reserved ↔
    a.toNat = 0x03 ∨ (0x09 ≤ a.toNat ∧ a.toNat ≤ 0x0B) ∨ a.toNat = 0x15 ∨ (0x1B ≤ a.toNat ∧ a.toNat ≤ 0x1F) ∨
      (0x2D ≤ a.toNat ∧ a.toNat ≤ 0x3F) ∨ (0x52 ≤ a.toNat ∧ a.toNat ≤ 0x7F) := by decide

/-! ## One byte of the CRC register replaced -/

section Crc
variable (x : Quad) (v : Byte)

theorem crcBytes_high : crcByte3 x ++ crcByte2 x = x.extractLsb' 16 16 :=
  BitVec.extractLsb'_append_extractLsb'_eq_extractLsb' rfl

theorem crcBytes_low : crcByte1 x ++ crcByte0 x = x.extractLsb' 0 16 :=
  BitVec.extractLsb'_append_extractLsb'_eq_extractLsb' rfl

/-- The CRC's bytes as its two 16-bit halves. -/
theorem joinCrc_eq_halves (b3 b2 b1 b0 : Byte) : joinCrc b3 b2 b1 b0 = b3 ++ b2 ++ (b1 ++ b0) :=
  BitVec.append_assoc

theorem joinCrc_replace_byte3 :
    joinCrc v (crcByte2 x) (crcByte1 x) (crcByte0 x) = v ++ x.extractLsb' 0 24 := by
  have hlow : crcByte2 x ++ x.extractLsb' 0 16 = x.extractLsb' 0 24 :=
    BitVec.extractLsb'_append_extractLsb'_eq_extractLsb' rfl
  rw [joinCrc_eq_halves, crcBytes_low, ← hlow]
  exact BitVec.append_assoc

theorem joinCrc_replace_byte2 :
    joinCrc (crcByte3 x) v (crcByte1 x) (crcByte0 x) = x.extractLsb' 24 8 ++ v ++ x.extractLsb' 0 16 := by
  rw [joinCrc_eq_halves, crcBytes_low, crcByte3]

theorem joinCrc_replace_byte1 :
    joinCrc (crcByte3 x) (crcByte2 x) v (crcByte0 x) = x.extractLsb' 16 16 ++ v ++ x.extractLsb' 0 8 := by
  rw [joinCrc, crcBytes_high, crcByte0]

theorem joinCrc_replace_byte0 :
    joinCrc (crcByte3 x) (crcByte2 x) (crcByte1 x) v = x.extractLsb' 8 24 ++ v := by
  have hhigh : x.extractLsb' 16 16 ++ crcByte1 x = x.extractLsb' 8 24 :=
    BitVec.extractLsb'_append_extractLsb'_eq_extractLsb' rfl
  rw [joinCrc, crcBytes_high, hhigh]

end Crc

/-! ## The bits DESC and RCLS store of a byte -/

/-- DESC stores 0 in [3:2] and the byte's own bits elsewhere (R175). -/
theorem descMask_fields : ∀ v : Byte, (v &&& 0xF3#8).extractLsb' 2 2 = 0#2 ∧
    (v &&& 0xF3#8).extractLsb' 0 2 = v.extractLsb' 0 2 ∧ (v &&& 0xF3#8).extractLsb' 4 4 = v.extractLsb' 4 4 := by
  decide

/-- RCLS stores 0 in [7:3] and the byte's own bits elsewhere (R175). -/
theorem rclsMask_fields : ∀ v : Byte, (v &&& 0x07#8).extractLsb' 3 5 = 0#5 ∧
    (v &&& 0x07#8).extractLsb' 0 3 = v.extractLsb' 0 3 := by
  decide

/-! ## The settled obligations -/

/-- Settles O12: every register gives its byte and no side effect, and a reserved address is refused. -/
theorem hostReadReturnsTheByteOfTheMap : Obligations.HostReadReturnsTheByteOfTheMap := by
  intro s
  have read {a : Addr} {r : RegName} (ha : locate a = r) (hr : r ≠ .reserved) := memRead_of_locate ha hr s
  exact ⟨memRead_cmd s, read rfl nofun, read rfl nofun, read rfl nofun, read rfl nofun, read rfl nofun, read rfl nofun,
    read rfl nofun, read rfl nofun, read rfl nofun, read rfl nofun, read rfl nofun, read rfl nofun, read rfl nofun,
    read rfl nofun, read rfl nofun, read rfl nofun, read rfl nofun, read rfl nofun, read rfl nofun, read rfl nofun,
    read rfl nofun, fun i => read (locate_data i) nofun, fun i => read (locate_frame i) nofun,
    fun _ ha => memRead_of_reserved ha s⟩

/-- Settles O16: the eight addresses are the read-only registers'. -/
theorem writeToReadOnlyRegisterIsRefused : Obligations.WriteToReadOnlyRegisterIsRefused :=
  fun s v a ha => memWrite_of_refused (.inl ((access_eq_readOnly_iff a).mpr ha)) v s

/-- Settles O17: the ranges are those of the reserved addresses. -/
theorem accessToReservedAddressIsRefused : Obligations.AccessToReservedAddressIsRefused := by
  intro s v a ha
  have hres : locate a = .reserved := (locate_eq_reserved_iff a).mpr ha
  exact ⟨memRead_of_reserved hres s, memWrite_of_refused (.inr (congrArg RegName.access hres)) v s⟩

/-- Settles O13: a stored byte is the register's own write, where the model joins the CRC from its four bytes and the
statement keeps the rest of it as one field; the read-only and the reserved addresses refuse. -/
theorem hostWriteFollowsTheMap : Obligations.HostWriteFollowsTheMap := by
  intro s v
  have write {a : Addr} {r : RegName} (ha : locate a = r) (hr : r ≠ .cmd) := memWrite_of_locate ha hr v s
  rw [← joinCrc_replace_byte3, ← joinCrc_replace_byte2, ← joinCrc_replace_byte1, ← joinCrc_replace_byte0]
  exact ⟨memWrite_cmd v s, write rfl nofun, write rfl nofun, write rfl nofun, write rfl nofun, write rfl nofun,
    write rfl nofun, write rfl nofun, write rfl nofun, write rfl nofun, write rfl nofun, write rfl nofun,
    write rfl nofun, write rfl nofun, fun i => write (locate_data i) nofun, fun i => write (locate_frame i) nofun,
    fun a ha => memWrite_of_refused (ha.imp (access_eq_readOnly_iff a).mpr (congrArg RegName.access)) v s⟩

/-- Settles O15: each of the two registers stores and gives the byte through its mask. -/
theorem reservedBitsAreWriteAnyReadZero : Obligations.ReservedBitsAreWriteAnyReadZero := by
  intro s v
  have hdesc : locate 0x04 = .desc := rfl
  have hrcls : locate 0x14 = .rcls := rfl
  refine ⟨⟨_, memWrite_of_locate hdesc nofun v s, rfl, descMask_fields v⟩,
    ⟨_, memWrite_of_locate hrcls nofun v s, rfl, rclsMask_fields v⟩, ?_⟩
  rw [memRead_of_locate hdesc nofun, memRead_of_locate hrcls nofun]
  exact ⟨(descMask_fields s.desc).1, rfl, (rclsMask_fields s.rcls).1, rfl⟩

end Sys2Proof.Machine
end

section
/-! SUPPORT. Proofs about NOP and the illegal commands (spec/42_control.md R176, R177; spec/30_encoding.md R85). -/

namespace Sys2Proof.Machine

/-- Settles O33: NOP is a command that only succeeds. -/
theorem nopClearsTheErrorCodeOnly : Obligations.NopClearsTheErrorCodeOnly :=
  ⟨rfl, fun s => congrArg Host.Outcome.next (succeed_eq s)⟩

/-- IllegalCommand is code 3 and ERRACC bit 3 (R200, R201). -/
theorem raise_illegalCommand (s : State) : s.raise .illegalCommand =
    { s with status := (s.status &&& 0xF8#8) ||| 0x03#8, errAcc := s.errAcc ||| 0x08#8 } := rfl

/-- All six ILLEGAL rows raise IllegalCommand, whatever byte they carry (R177). -/
theorem exec_of_illegal {i : Instr} (hi : i.illegal = true) (s : State) :
    exec i s = .next (s.raise .illegalCommand) := by
  cases i
  case nop | classify | resolve | lddesc | encode | decode => cases hi
  all_goals rfl

/-- With RSV zero, OP is the whole byte as a number (R80). -/
theorem commandOp_toNat_of_commandRsv_eq_zero {c : Byte} (hrsv : commandRsv c = 0#4) :
    (commandOp c).toNat = c.toNat := by
  conv_rhs => rw [← commandRsv_append_commandOp c, hrsv, BitVec.toNat_append]
  simp

/-- A byte from 0x06 on has a nonzero RSV, or an OP from 6 on (R85). -/
theorem decode_illegal_of_six_le {c : Byte} (hc : 6 ≤ c.toNat) : (Sys2Proof.decode c).illegal = true := by
  by_cases hrsv : commandRsv c = 0#4
  · exact decode_illegal_of_six_le_commandOp (commandOp_toNat_of_commandRsv_eq_zero hrsv ▸ hc)
  · exact decode_illegal_of_commandRsv_ne_zero hrsv

/-- Settles O34: a byte from 6 on decodes into one of the six rows, and each row raises IllegalCommand. -/
theorem illegalCommandRecordsCodeThree : Obligations.IllegalCommandRecordsCodeThree := by
  intro s c
  have raises {i : Instr} (hi : i.illegal = true) := (exec_of_illegal hi s).trans (congrArg _ (raise_illegalCommand s))
  exact ⟨fun hc => (memWrite_cmd c s).trans (raises (decode_illegal_of_six_le hc)),
    raises rfl, raises rfl, raises rfl, raises rfl, raises rfl, raises rfl⟩

end Sys2Proof.Machine
end

section
/-! SUPPORT. Proofs about the end of a command, by success or by an error (spec/60_exceptions.md R200, R201, R203). -/

namespace Sys2Proof.Machine

/-! ## How a command ends -/

/-- What a command that raises an error leaves in ADESC: VALID cleared by LDDESC, all of it kept by any other (R203). -/
def adescOnError (i : Instr) (adesc : Byte) : Byte := if i = .lddesc then clearValid adesc else adesc

theorem adescOnError_of_ne_lddesc {i : Instr} (hi : i ≠ .lddesc) (adesc : Byte) : adescOnError i adesc = adesc :=
  if_neg hi

theorem ne_lddesc_of_illegal {i : Instr} (hi : i.illegal = true) : i ≠ .lddesc := by
  rintro rfl
  cases hi

/-- Code 0 is what a success leaves in STATUS.ERR (R200). -/
theorem errField_succeed (s : State) : s.succeed.status.extractLsb' 0 3 = 0#3 := errField_setErr s.status 0

section EndOfCommand
variable {i : Instr} {s t : State}

/-- `raise` writes STATUS and ERRACC only, so an instruction that raises on the state it was given keeps ADESC. -/
theorem raise_eq_of_ne_lddesc (hi : i ≠ .lddesc) (e : CmdError) :
    s.raise e = (s.withActive (adescOnError i s.adesc)).raise e := by
  rw [adescOnError_of_ne_lddesc hi]
  rfl

/-- A command ends by a success, after whatever it wrote, or by an error raised on the state it was given, where only
LDDESC has touched ADESC (R201, R203). -/
theorem exec_succeeds_or_raises (h : exec i s = .next t) :
    (∃ u : State, t = u.succeed) ∨ ∃ e, t = (s.withActive (adescOnError i s.adesc)).raise e := by
  rcases exec_cases h with ⟨-, rfl⟩ | ⟨-, rfl⟩ | ⟨-, rfl⟩ | ⟨-, -, rfl⟩ | ⟨rfl, -, rfl⟩ | ⟨-, -, rfl⟩ | ⟨-, -, -, rfl⟩ |
    ⟨hi, -, rfl⟩ | ⟨rfl, -, -, rfl⟩ | ⟨hi, rfl⟩
  · exact .inl ⟨_, rfl⟩ -- NOP
  · exact .inl ⟨_, rfl⟩ -- CLASSIFY
  · exact .inl ⟨_, rfl⟩ -- RESOLVE
  · exact .inl ⟨_, rfl⟩ -- LDDESC, a descriptor in bounds
  · exact .inr ⟨_, rfl⟩ -- LDDESC, a descriptor out of bounds
  · exact .inl ⟨_, rfl⟩ -- ENCODE with VALID
  · exact .inl ⟨_, rfl⟩ -- DECODE of a complete frame
  · have hne : i ≠ .lddesc := by rcases hi with rfl | rfl <;> decide
    exact .inr ⟨_, raise_eq_of_ne_lddesc hne _⟩ -- ENCODE and DECODE without VALID
  · exact .inr ⟨_, raise_eq_of_ne_lddesc (by decide) _⟩ -- DECODE of a truncated frame
  · exact .inr ⟨_, raise_eq_of_ne_lddesc (ne_lddesc_of_illegal hi) _⟩ -- the ILLEGAL rows

end EndOfCommand

/-- Settles O30: a success leaves code 0, so the command raised, and a raise writes STATUS and ERRACC only. -/
theorem failedCommandLeavesNoPartialResult : Obligations.FailedCommandLeavesNoPartialResult := by
  intro i s t h herr
  obtain ⟨u, rfl⟩ | ⟨e, rfl⟩ := exec_succeeds_or_raises h
  · exact absurd (errField_succeed u) herr
  · rfl

end Sys2Proof.Machine
end

section
/-! SUPPORT. Proofs about reset (spec/70_reset_and_hazards.md R250, R251). -/

namespace Sys2Proof.Machine

/-- A step that takes a reset event completes with the event off the queue and the block reset. -/
theorem step_reset {s : State} {rest : List HostEvent} (h : s.pending = .reset :: rest) :
    step s = .next (s.withPending rest).resetBlock := by
  unfold step runNext
  rw [h]
  rfl

/-- R250 for the state in which a run begins; the reset event's state inherits it. -/
theorem atResetValues_reset : AtResetValues State.reset where
  status := rfl
  errAcc := rfl
  desc := rfl
  adesc := rfl
  flags := rfl
  flen := rfl
  cons := rfl
  crc := rfl
  fidIn := rfl
  cls := rfl
  nidx := rfl
  rcls := rfl
  rarg := rfl
  fout := rfl
  rhit := rfl
  data i := Vector.getElem_replicate i.isLt
  frame i := Vector.getElem_replicate i.isLt

/-- The reset event differs from `State.reset` in the table and the host's side only, of which R250's table says
nothing. -/
theorem atResetValues_resetBlock (s : State) : AtResetValues s.resetBlock :=
  { atResetValues_reset with }

/-- Settles O23: the reset event's step leads to `resetBlock`, which has R250's values and keeps the table (R251). -/
theorem resetPutsEveryRegisterAtItsValue : Obligations.ResetPutsEveryRegisterAtItsValue :=
  ⟨atResetValues_reset, fun s rest h =>
    ⟨(s.withPending rest).resetBlock, step_reset h, atResetValues_resetBlock _, State.resetBlock_namedTable _⟩⟩

end Sys2Proof.Machine
end

section
/-! SUPPORT. Proofs about the encoder and the opcode table (spec/30_encoding.md R80, R81, R85; opcode_table.json). -/

namespace Sys2Proof

/-- Encoding loses nothing of a well-formed instruction: a command has one byte, and each byte of an ILLEGAL row's
pattern is decoded into that row. -/
theorem decode_encode {i : Instr} (hwf : i.wellFormed = true) : decode (encode i) = i := by
  cases i
  case nop | classify | resolve | lddesc | encode | decode => rfl
  case illegalOp6to7 c | illegalOp8to15 c => revert c; decide
  case illegalRsvBit4 c | illegalRsvBit5 c | illegalRsvBit6 c | illegalRsvBit7 c => revert c; decide

/-- Settles O1: row by row. -/
theorem decodeOfEncodeIsTheInstruction : Obligations.DecodeOfEncodeIsTheInstruction :=
  fun _ hwf => decode_encode hwf

theorem decode_wellFormed : ∀ c : Byte, (decode c).wellFormed = true := by decide

theorem encode_decode : ∀ c : Byte, encode (decode c) = c := by decide

/-- Settles O2: both facts are about 256 bytes. -/
theorem encodeOfDecodeIsTheByte : Obligations.EncodeOfDecodeIsTheByte :=
  fun c => ⟨decode_wellFormed c, encode_decode c⟩

/-- Settles O4: the decoder evaluates on each of the twelve bytes. -/
theorem writtenOutBytesDecode : Obligations.WrittenOutBytesDecode :=
  ⟨rfl, rfl, rfl, rfl, rfl, rfl, rfl, rfl, rfl, rfl, rfl, rfl⟩

/-- Settles O5: one lemma of `Laws.FitsOwnRow` for each row. -/
theorem encodingFitsExactlyItsOwnTableRow : Obligations.EncodingFitsExactlyItsOwnTableRow := by
  intro i
  cases i with
  | nop => exact Laws.FitsOwnRow.nop
  | classify => exact Laws.FitsOwnRow.classify
  | resolve => exact Laws.FitsOwnRow.resolve
  | lddesc => exact Laws.FitsOwnRow.lddesc
  | encode => exact Laws.FitsOwnRow.encode
  | decode => exact Laws.FitsOwnRow.decode
  | illegalOp6to7 c => exact Laws.FitsOwnRow.illegalOp6to7 c
  | illegalOp8to15 c => exact Laws.FitsOwnRow.illegalOp8to15 c
  | illegalRsvBit4 c => exact Laws.FitsOwnRow.illegalRsvBit4 c
  | illegalRsvBit5 c => exact Laws.FitsOwnRow.illegalRsvBit5 c
  | illegalRsvBit6 c => exact Laws.FitsOwnRow.illegalRsvBit6 c
  | illegalRsvBit7 c => exact Laws.FitsOwnRow.illegalRsvBit7 c

end Sys2Proof
end

section
/-! SUPPORT. The invariant `Legal` (spec/10_state.md sections 2 to 5): what CLASSIFY, RESOLVE, reset and a host read
keep of it, then every command and every step. -/

namespace Sys2Proof.Machine

/-- Every value of R250 is a legal one, so a state at those values is legal when its table is. -/
theorem AtResetValues.legal {s : State} (h : AtResetValues s) (htable : TableLegal s.namedTable) : Legal s where
  status := by simp [h.status]
  errAcc := by simp [h.errAcc]
  desc := by simp [h.desc]
  adescReserved := by simp [h.adesc]
  adescBounds := by rw [h.adesc]; rfl
  cons := by simp [h.cons]
  cls := by simp [h.cls]
  nidx := by simp [h.cls, h.nidx]
  rcls := by simp [h.rcls]
  rhit := by simp [h.rhit]
  table := htable

/-- Settles O25: the reset values are legal, and so is the table the block is built with. -/
theorem resetStateIsLegal : Obligations.ResetStateIsLegal :=
  atResetValues_reset.legal namedTable_legal

/-! ## CLASSIFY's results -/

/-- A range class stands in CLS with the one routing bit it can have (R105, R114). -/
theorem clsByte_classifyRange_mem (id : Half) :
    clsByte (rtcdisp id) (classifyRange id).tag ∈ [0x0A#8, 0x0B#8, 0x04#8, 0x05#8, 0x06#8] := by
  unfold classifyRange rtcdisp
  split_ifs with hrtc3 hrtc1 hudp hfrag <;> simp [*, TransportClass.tag, clsByte]

theorem classifyRange_tag_ne_one (id : Half) : (classifyRange id).tag ≠ 1#3 := by
  unfold classifyRange
  split_ifs <;> simp [TransportClass.tag]

/-- A classification is a range's, or the name index of a table entry. -/
theorem classify_cases (table : List Half) (id : Half) :
    classify table id = classifyRange id ∨
      ∃ k, table[k]? = some id ∧ classify table id = .namedFrame (BitVec.ofNat 8 k) := by
  unfold classify
  cases hk : namedIndex table id with
  | none => exact .inl rfl
  | some k => exact .inr ⟨k, namedIndex_getElem? hk, rfl⟩

/-- CLS after CLASSIFY is a class with a routing bit it can have; a NamedFrame can have either (R116). -/
theorem clsByte_classify_mem (table : List Half) (id : Half) :
    clsByte (rtcdisp id) (classify table id).tag ∈
      [0x00#8, 0x01#8, 0x09#8, 0x0A#8, 0x0B#8, 0x04#8, 0x05#8, 0x06#8] := by
  obtain hrange | ⟨k, -, hname⟩ := classify_cases table id
  · rw [hrange]
    have hmem := clsByte_classifyRange_mem id
    simp only [List.mem_cons] at hmem ⊢
    tauto
  · rw [hname]
    cases rtcdisp id <;> simp [TransportClass.tag, clsByte]

/-- NIDX after CLASSIFY is an index of the table under tag 1, and 0 under every other tag (R40). -/
theorem classify_nameIndex_legal {table : List Half} (htable : TableLegal table) (id : Half) :
    if (classify table id).tag = 1#3 then (classify table id).nameIndex.toNat < table.length
    else (classify table id).nameIndex = 0 := by
  obtain hrange | ⟨k, hk, hname⟩ := classify_cases table id
  · rw [hrange, if_neg (classifyRange_tag_ne_one id)]
    exact classifyRange_nameIndex id
  · have htag : (TransportClass.namedFrame (BitVec.ofNat 8 k)).tag = 1#3 := rfl
    rw [hname, if_pos htag, htable.nameIndex_toNat hk]
    exact (List.getElem?_eq_some_iff.1 hk).1

namespace Legal
variable {s t : State}

theorem withClass (h : Legal s) :
    Legal (s.withClass (rtcdisp s.fidIn) (classify s.namedTable s.fidIn)) where
  __ := h
  cls := clsByte_classify_mem s.namedTable s.fidIn
  nidx := by
    rw [State.withClass_cls, (clsByte_fields _ _).1]
    exact classify_nameIndex_legal h.table s.fidIn

theorem withResolved (h : Legal s) (v : Half) (hit : Bool) : Legal (s.withResolved v hit) where
  __ := h
  rhit := by
    rw [State.withResolved_rhit]
    cases hit <;> decide

/-- LDDESC's success loads a byte with bit 2 clear, of the descriptor it has checked (R131). -/
theorem withActive_activeByte (h : Legal s) (hd : (descriptorOf s.desc).inBounds = true) :
    Legal (s.withActive (descriptorOf s.desc).activeByte) := by
  have hbit2 : ∀ b : Byte, (descriptorOf b).activeByte &&& 0x04#8 = 0 := by decide
  exact h.withActive _ (hbit2 s.desc) (by rwa [descriptorOf_activeByte])

/-- LDDESC's failure clears VALID and keeps the other fields of ADESC (R134). -/
theorem withActive_clearValid (h : Legal s) : Legal (s.withActive (clearValid s.adesc)) := by
  have hbit2 : ∀ b : Byte, b &&& 0x04#8 = 0 → clearValid b &&& 0x04#8 = 0 := by decide
  have hdesc : ∀ b : Byte, descriptorOf (clearValid b) = descriptorOf b := by decide
  exact h.withActive _ (hbit2 _ h.adescReserved) ((hdesc s.adesc).symm ▸ h.adescBounds)

theorem exec {i : Instr} (h : Legal s) (hexec : exec i s = .next t) : Legal t := by
  rcases exec_cases hexec with ⟨-, rfl⟩ | ⟨-, rfl⟩ | ⟨-, rfl⟩ | ⟨-, hd, rfl⟩ | ⟨-, -, rfl⟩ | ⟨-, -, rfl⟩ |
    ⟨-, -, -, rfl⟩ | ⟨-, -, rfl⟩ | ⟨-, -, -, rfl⟩ | ⟨-, rfl⟩
  · exact h.succeed -- NOP
  · exact h.withClass.succeed -- CLASSIFY
  · exact (h.withResolved _ _).succeed -- RESOLVE
  · exact (h.withActive_activeByte hd).succeed -- LDDESC, a descriptor in bounds
  · exact h.withActive_clearValid.raise _ -- LDDESC, a descriptor out of bounds
  · exact h.packFields.succeed -- ENCODE with VALID
  · exact h.unpackFields.succeed -- DECODE of a complete frame
  all_goals exact h.raise _ -- the errors that leave ADESC as it was

theorem hostRead (h : Legal s) (a : Addr) : Legal (hostRead a s) := by
  have hread : Legal (memRead a s).2 := by
    rw [memRead_snd]
    split
    · exact h.badAccess
    · exact h
  exact hread.record _

theorem resetBlock (h : Legal s) : Legal s.resetBlock :=
  (atResetValues_resetBlock s).legal h.table

end Legal

/-- Settles O26: each kind of step is a composition of operations that keep `Legal`. -/
theorem everyStepKeepsTheStateLegal : Obligations.EveryStepKeepsTheStateLegal := by
  intro s t h hstep
  rcases step_cases hstep with ⟨-, rfl⟩ | ⟨a, rest, -, rfl⟩ | ⟨a, v, rest, -, -, rfl⟩ | ⟨a, c, rest, -, -, hexec⟩ |
    ⟨rest, -, rfl⟩
  · exact h
  · exact (h.withPending rest).hostRead a
  · exact ((h.withPending rest).record _).writeReg v _
  · exact ((h.withPending rest).record _).exec hexec
  · exact (h.withPending rest).resetBlock

end Sys2Proof.Machine
end

section
/-! SUPPORT. Proofs about the classifier's ranges and its round-trip laws (spec/40_classifier.md R101 to R103 and
section 4). -/

namespace Sys2Proof.Machine

/-! ## The bitwise range decoders -/

/-- A field of an identifier compared with a constant, as a statement about the identifier as a number. -/
theorem extract_eq_iff (id : Half) (lo n : Nat) (x : BitVec n) :
    id.extractLsb' lo n = x ↔ id.toNat / 2 ^ lo % 2 ^ n = x.toNat := by
  rw [← BitVec.toNat_inj, extract_toNat]

section Ranges
variable (id : Half)

theorem bitsRtc3_iff : bitsRtc3 id = true ↔ 0x0100 ≤ id.toNat ∧ id.toNat < 0x1000 := by
  have hid := id.isLt
  simp only [bitsRtc3, Bool.and_eq_true, beq_iff_eq, bne_iff_ne, ne_eq, extract_eq_iff, BitVec.toNat_ofNat]
  omega

theorem bitsRtc1_iff : bitsRtc1 id = true ↔ 0x8000 ≤ id.toNat ∧ id.toNat < 0xC000 := by
  have hid := id.isLt
  simp only [bitsRtc1, beq_iff_eq, extract_eq_iff, BitVec.toNat_ofNat]
  omega

theorem bitsUdp_iff : bitsUdp id = true ↔ 0xC000 ≤ id.toNat ∧ id.toNat < 0xFC00 := by
  have hid := id.isLt
  simp only [bitsUdp, Bool.and_eq_true, beq_iff_eq, bne_iff_ne, ne_eq, extract_eq_iff, BitVec.toNat_ofNat]
  omega

theorem bitsFrag_iff : bitsFrag id = true ↔ 0xFF80 ≤ id.toNat ∧ id.toNat < 0xFF90 := by
  have hid := id.isLt
  simp only [bitsFrag, beq_iff_eq, extract_eq_iff, BitVec.toNat_ofNat]
  omega

end Ranges

/-- Settles O35: each decoder's fields are the digits of its range's bounds. -/
theorem bitwiseDecodersEqualTheRanges : Obligations.BitwiseDecodersEqualTheRanges :=
  fun id => ⟨bitsRtc3_iff id, bitsRtc1_iff id, bitsUdp_iff id, bitsFrag_iff id⟩

/-- The classifier's own predicates hold of no identifier two at a time (R103). -/
theorem ranges_pairwise_disjoint (id : Half) :
    List.Pairwise (fun a b => ¬(a = true ∧ b = true)) [inRtc3 id, inRtc1 id, inUdp id, inFrag id] := by
  simp only [List.pairwise_cons, List.forall_mem_cons, List.not_mem_nil, false_imp_iff, implies_true,
    List.Pairwise.nil, and_true, inRtc3_iff, inRtc1_iff, inUdp_iff, inFrag_iff]
  omega

/-- Settles O36: the numeric bounds do not overlap, and the bitwise decoders are the same four predicates. -/
theorem rangesAreDisjoint : Obligations.RangesAreDisjoint := by
  intro id
  have hrtc3 : bitsRtc3 id = inRtc3 id := Bool.eq_iff_iff.2 ((bitsRtc3_iff id).trans (inRtc3_iff id).symm)
  have hrtc1 : bitsRtc1 id = inRtc1 id := Bool.eq_iff_iff.2 ((bitsRtc1_iff id).trans (inRtc1_iff id).symm)
  have hudp : bitsUdp id = inUdp id := Bool.eq_iff_iff.2 ((bitsUdp_iff id).trans (inUdp_iff id).symm)
  have hfrag : bitsFrag id = inFrag id := Bool.eq_iff_iff.2 ((bitsFrag_iff id).trans (inFrag_iff id).symm)
  rw [hrtc3, hrtc1, hudp, hfrag]
  exact ⟨ranges_pairwise_disjoint id, ranges_pairwise_disjoint id⟩

/-! ## CLASSIFY after RESOLVE -/

/-- A range tag resolves to an identifier of that range, whatever the table and the argument are. -/
theorem resolve_range {tag : BitVec 3} (htag : tag ∈ [2#3, 3#3, 4#3, 5#3]) (table : List Half) (arg : Half) :
    ∃ id, resolve table tag arg = (id, true) ∧ (classifyRange id).tag = tag := by
  simp only [List.mem_cons, List.not_mem_nil, or_false] at htag
  rcases htag with rfl | rfl | rfl | rfl
  · exact ⟨0x8000, rfl, rfl⟩
  · exact ⟨0x0100, rfl, rfl⟩
  · exact ⟨0xC000, rfl, rfl⟩
  · exact ⟨0xFF80, rfl, rfl⟩

theorem exec_resolve_namedTable {s t : State} (h : exec .resolve s = .next t) : t.namedTable = s.namedTable := by
  rw [exec_resolve_eq h]
  rfl

/-- Settles O39: FOUT lies in the tag's range, and outside the table the range decides. -/
theorem resolvedRangeClassClassifiesBack : Obligations.ResolvedRangeClassClassifiesBack := by
  intro s htag
  obtain ⟨t, ht⟩ := exec_answers .resolve s
  obtain ⟨id, hres, hback⟩ := resolve_range htag s.namedTable s.rarg
  obtain ⟨hfout, -⟩ := exec_resolve_result ht rfl hres
  refine ⟨t, ht, fun hnot => ?_⟩
  obtain ⟨u, hu⟩ := exec_answers .classify { t with fidIn := t.fout }
  refine ⟨u, hu, ?_⟩
  rw [exec_classify_tag hu, exec_resolve_namedTable ht, classify_of_not_mem hnot, hfout, hback]

/-- Settles O40: FOUT is the table's entry at RARG, whose index a table without repeats gives back. -/
theorem resolvedNameClassifiesBack : Obligations.ResolvedNameClassifiesBack := by
  intro s htable htag harg
  obtain ⟨t, ht⟩ := exec_answers .resolve s
  obtain ⟨hfout, -⟩ := exec_resolve_result ht htag (resolve_named harg)
  obtain ⟨u, hu⟩ := exec_answers .classify { t with fidIn := t.fout }
  have hentry : s.namedTable[s.rarg.toNat]? = some t.fout := by rw [hfout, List.getElem?_eq_getElem harg]
  refine ⟨t, u, ht, hu, ?_⟩
  rw [exec_classify_tag hu, exec_classify_nidx hu, exec_resolve_namedTable ht, classify_of_named htable.2 hentry]
  exact ⟨rfl, htable.nameIndex_toNat hentry⟩

/-! ## RESOLVE after CLASSIFY -/

/-- RESOLVE's operand of a masked CLS byte is the byte's tag field. -/
theorem classOperand_mask : ∀ c : Byte, (c &&& 0x07#8).extractLsb' 0 3 = c.extractLsb' 0 3 := by decide

/-- Settles O41: tag 6 is one that RESOLVE echoes, and CLASSIFY keeps FID_IN. -/
theorem rawIdentifierResolvesToItself : Obligations.RawIdentifierResolvesToItself := by
  intro s t ht htag
  have hfid : t.fidIn = s.fidIn := by rw [exec_classify_eq ht]; rfl
  obtain ⟨u, hu⟩ := exec_answers .resolve { t with rcls := t.cls &&& 0x07#8, rarg := t.fidIn }
  obtain ⟨hfout, hrhit⟩ := exec_resolve_result hu ((classOperand_mask t.cls).trans htag)
    (resolve_unrecognised _ _ (by decide))
  exact ⟨u, hu, hfout.trans hfid, hrhit⟩

end Sys2Proof.Machine
end

section
/-! SUPPORT. Proofs about what a command leaves in each register (spec/30_encoding.md R82; spec/60_exceptions.md R200,
R201, R204). -/

namespace Sys2Proof.Machine

/-- Settles O28: each kind of end of a command is an update of State that names the fields it writes. -/
theorem commandsChangeOnlyTheRegistersTheyList : Obligations.CommandsChangeOnlyTheRegistersTheyList := by
  intro i s t h
  rcases exec_cases h with ⟨rfl, rfl⟩ | ⟨rfl, rfl⟩ | ⟨rfl, rfl⟩ | ⟨rfl, -, rfl⟩ | ⟨rfl, -, rfl⟩ | ⟨rfl, -, rfl⟩ |
    ⟨rfl, -, -, rfl⟩ | ⟨-, -, rfl⟩ | ⟨-, -, -, rfl⟩ | ⟨-, rfl⟩
  all_goals simp

/-- The result code of a command and its trace in ERRACC: code 0 and none, or an error's code and the error's bit. -/
theorem exec_resultCode {i : Instr} {s t : State} (h : exec i s = .next t) :
    (t.status = setErr s.status 0 ∧ t.errAcc = s.errAcc) ∨
      ∃ e : CmdError, t.status = setErr s.status e.code ∧ t.errAcc = recordError s.errAcc e.code := by
  rcases exec_cases h with ⟨-, rfl⟩ | ⟨-, rfl⟩ | ⟨-, rfl⟩ | ⟨-, -, rfl⟩ | ⟨-, -, rfl⟩ | ⟨-, -, rfl⟩ | ⟨-, -, -, rfl⟩ |
    ⟨-, -, rfl⟩ | ⟨-, -, -, rfl⟩ | ⟨-, rfl⟩
  · exact .inl ⟨rfl, rfl⟩ -- NOP
  · exact .inl ⟨rfl, rfl⟩ -- CLASSIFY
  · exact .inl ⟨rfl, rfl⟩ -- RESOLVE
  · exact .inl ⟨rfl, rfl⟩ -- LDDESC, a descriptor in bounds
  · exact .inr ⟨.invalidDescriptor, rfl, rfl⟩ -- LDDESC, a descriptor out of bounds
  · exact .inl ⟨rfl, rfl⟩ -- ENCODE with VALID
  · exact .inl ⟨rfl, rfl⟩ -- DECODE of a complete frame
  · exact .inr ⟨.invalidDescriptor, rfl, rfl⟩ -- ENCODE and DECODE without VALID
  · exact .inr ⟨.truncatedFrame, rfl, rfl⟩ -- DECODE of a truncated frame
  · exact .inr ⟨.illegalCommand, rfl, rfl⟩ -- the ILLEGAL rows

/-- Settles O31: code 0 comes with an untouched ERRACC, and an error's code is from 1 to 3 and sets its own bit. -/
theorem commandReportsOneCodeAndSetsItsBit : Obligations.CommandReportsOneCodeAndSetsItsBit := by
  intro i s t h
  obtain ⟨hstatus, herrAcc⟩ | ⟨e, hstatus, herrAcc⟩ := exec_resultCode h <;>
    rw [hstatus, herrAcc, errField_setErr, setErr_upper]
  · exact ⟨by decide, rfl, fun _ => rfl, fun hne => absurd rfl hne⟩
  · exact ⟨e.code_le, rfl, fun hzero => absurd hzero e.code_ne_zero, fun _ _ hk => recordError_getLsbD _ e hk⟩

end Sys2Proof.Machine
end

section
/-! SUPPORT. Proofs about one step of the machine (spec/20_memory.md R68, R70; spec/42_control.md R170 to R175;
spec/60_exceptions.md R206, R209, R210). -/

namespace Sys2Proof.Machine

/-! ## One step, by the event it takes -/

section Step
variable {s : State} {a : Addr} {v : Byte} {rest : List HostEvent}

theorem step_idle (h : s.pending = []) : step s = .next s := by
  unfold step runNext
  rw [h]

theorem step_read (h : s.pending = .read a :: rest) : step s = .next (hostRead a (s.withPending rest)) := by
  unfold step runNext
  rw [h]
  rfl

/-- A step that takes a write is that write, with its transaction on the log. -/
theorem step_memWrite (h : s.pending = .write a v :: rest) :
    step s = memWrite a v ((s.withPending rest).record ⟨.W, a, v⟩) := by
  unfold step runNext
  rw [h]
  rfl

theorem step_command (h : s.pending = .write 0x00 v :: rest) :
    step s = exec (Sys2Proof.decode v) ((s.withPending rest).record ⟨.W, 0x00, v⟩) :=
  (step_memWrite h).trans (memWrite_cmd v _)

end Step

/-- Settles O6: a write at CMD's address is the command. -/
theorem stepRunsTheDecodedCommand : Obligations.StepRunsTheDecodedCommand :=
  fun _ _ _ h => step_command h

/-- Settles O7: the load puts the command's write first, and the step takes it off again. -/
theorem nextStepRunsTheFetchWord : Obligations.NextStepRunsTheFetchWord :=
  fun s w _ => step_command (s.withFetchWord_pending 8 w)

/-- Settles O8: the block has no step of its own. -/
theorem nothingHappensWithoutAHostAccess : Obligations.NothingHappensWithoutAHostAccess :=
  fun _ h => step_idle h

/-! ## What a read leaves -/

/-- The byte at an address is the block's: the host's side of the bus is no part of it. -/
theorem byteOf_withPending (s : State) (events : List HostEvent) (a : Addr) :
    (s.withPending events).byteOf a = s.byteOf a := by
  unfold State.byteOf
  cases locate a <;> rfl

/-- A read as one update: BADACC at a reserved address, and the transaction with the byte read. -/
theorem hostRead_eq (a : Addr) (s : State) :
    hostRead a s = (if locate a = .reserved then s.badAccess else s).record ⟨.R, a, s.byteOf a⟩ := by
  unfold hostRead
  rw [← memRead_snd, ← memRead_fst]

theorem hostRead_of_ne_reserved {a : Addr} (ha : locate a ≠ .reserved) (s : State) :
    hostRead a s = s.record ⟨.R, a, s.byteOf a⟩ := by
  rw [hostRead_eq, if_neg ha]

theorem hostRead_of_reserved {a : Addr} (ha : locate a = .reserved) (s : State) :
    hostRead a s = s.badAccess.record ⟨.R, a, s.byteOf a⟩ := by
  rw [hostRead_eq, if_pos ha]

/-- A read changes at most ERRACC and the log (R170, R174). -/
theorem hostRead_keeps (a : Addr) (s : State) :
    (hostRead a s).status = s.status ∧ (hostRead a s).adesc = s.adesc ∧
    (hostRead a s).namedTable = s.namedTable ∧ (hostRead a s).pending = s.pending := by
  rw [hostRead_eq]
  split <;> exact ⟨rfl, rfl, rfl, rfl⟩

/-! ## Every step completes -/

/-- A write completes with its transaction on the log and its event off the queue. -/
theorem step_write_answers {s : State} {a : Addr} {v : Byte} {rest : List HostEvent}
    (h : s.pending = .write a v :: rest) :
    ∃ t, step s = .next t ∧ t.busLog = ⟨.W, a, v⟩ :: s.busLog ∧ t.pending = rest := by
  obtain ⟨t, ht, hpending, hlog⟩ := memWrite_answers a v ((s.withPending rest).record ⟨.W, a, v⟩)
  exact ⟨t, (step_memWrite h).trans ht, hlog, hpending⟩

/-- Settles O9: by the event that waits first, if any. -/
theorem everyStepAnswersANextState : Obligations.EveryStepAnswersANextState := by
  intro s
  match h : s.pending with
  | [] => exact ⟨s, step_idle h, h⟩
  | .read a :: rest =>
    obtain ⟨-, -, -, hpending⟩ := hostRead_keeps a (s.withPending rest)
    exact ⟨_, step_read h, hpending⟩
  | .write a v :: rest =>
    obtain ⟨t, ht, -, hpending⟩ := step_write_answers h
    exact ⟨t, ht, hpending⟩
  | .reset :: rest => exact ⟨_, step_reset h, rfl⟩

/-- Settles O10: a read logs the byte at the address, which the queue has no part in; a write logs its own byte. -/
theorem transactionsCarryTheBytes : Obligations.TransactionsCarryTheBytes := by
  refine fun s a rest => ⟨fun h => ?read, fun v h => step_write_answers h⟩
  case read =>
    obtain ⟨-, -, -, hpending⟩ := hostRead_keeps a (s.withPending rest)
    refine ⟨_, step_read h, ?_, hpending⟩
    rw [hostRead_eq, State.record_busLog, byteOf_withPending, memRead_fst]
    split <;> rfl

/-- Settles O24: the reset event's step changes the block alone. -/
theorem resetLeavesTheHostSide : Obligations.ResetLeavesTheHostSide :=
  fun _ _ h => ⟨_, step_reset h, rfl, rfl⟩

/-! ## Refused accesses -/

theorem access_eq_reserved_iff {r : RegName} : r.access = .reserved ↔ r = .reserved := by
  cases r <;> simp [RegName.access]

theorem refused_read_iff {a : Addr} : (HostEvent.read a).refused = true ↔ locate a = .reserved := by
  rw [HostEvent.refused, beq_iff_eq, access_eq_reserved_iff]

theorem refused_write_iff {a : Addr} {v : Byte} : (HostEvent.write a v).refused = true ↔
    (locate a).access = .readOnly ∨ (locate a).access = .reserved := by
  rw [HostEvent.refused, Bool.or_eq_true, beq_iff_eq, beq_iff_eq, or_comm]

/-- Settles O21: a refused read and a refused write both end in `badAccess`; a reset is never refused. -/
theorem refusedAccessOnlyRecordsBadAccess : Obligations.RefusedAccessOnlyRecordsBadAccess := by
  intro s e rest h href
  cases e with
  | read a =>
    have hread := hostRead_of_reserved (refused_read_iff.1 href) (s.withPending rest)
    exact ⟨_, (step_read h).trans (congrArg _ hread), rfl⟩
  | write a v => exact ⟨_, (step_memWrite h).trans (memWrite_of_refused (refused_write_iff.1 href) v _), rfl⟩
  | reset => cases href

/-! ## What a step can do to ERRACC -/

/-- A write to a register other than CMD sets BADACC when refused, clears bits of ERRACC at ERRACC, and keeps ERRACC
at every other register. -/
theorem writeReg_errAcc_cases (s : State) (v : Byte) (r : RegName) :
    (s.writeReg v r).errAcc = s.errAcc ∨
    ((r.access = .readOnly ∨ r.access = .reserved) ∧ (s.writeReg v r).errAcc = recordBadAccess s.errAcc) ∨
    (r = .errAcc ∧ (s.writeReg v r).errAcc = clearErrors s.errAcc v) := by
  cases r
  case errAcc => exact .inr (.inr ⟨rfl, rfl⟩)
  case status | adesc | cons | cls | nidx | foutH | foutL | rhit => exact .inr (.inl ⟨.inl rfl, rfl⟩)
  case reserved => exact .inr (.inl ⟨.inr rfl, rfl⟩)
  all_goals exact .inl rfl

/-- ERRACC stands at address 0x02 and nowhere else. -/
theorem locate_eq_errAcc : ∀ a : Addr, locate a = .errAcc ↔ a = 0x02#7 := by decide

/-- ERRACC is kept by a step, or a command records its error, a refused access records BADACC, a write to ERRACC clears
bits, or a reset clears them all. -/
theorem step_errAcc_cases {s t : State} (h : step s = .next t) :
    t.errAcc = s.errAcc ∨
    (∃ e : CmdError, t.errAcc = recordError s.errAcc e.code) ∨
    (∃ e rest, s.pending = e :: rest ∧ e.refused = true ∧ t.errAcc = recordBadAccess s.errAcc) ∨
    (∃ v rest, s.pending = .write 0x02 v :: rest ∧ t.errAcc = clearErrors s.errAcc v) ∨
    ∃ rest, s.pending = .reset :: rest ∧ t.errAcc = 0x00#8 := by
  rcases step_cases h with ⟨-, rfl⟩ | ⟨a, rest, hp, rfl⟩ | ⟨a, v, rest, hp, -, rfl⟩ | ⟨a, c, rest, hp, -, hexec⟩ |
    ⟨rest, hp, rfl⟩
  · exact .inl rfl
  · by_cases ha : locate a = .reserved
    · rw [hostRead_of_reserved ha]
      exact .inr (.inr (.inl ⟨_, rest, hp, refused_read_iff.2 ha, rfl⟩))
    · rw [hostRead_of_ne_reserved ha]
      exact .inl rfl
  · obtain hkept | ⟨href, hbad⟩ | ⟨hreg, hclear⟩ :=
      writeReg_errAcc_cases ((s.withPending rest).record ⟨.W, a, v⟩) v (locate a)
    · exact .inl hkept
    · exact .inr (.inr (.inl ⟨_, rest, hp, refused_write_iff.2 href, hbad⟩))
    · obtain rfl := (locate_eq_errAcc a).1 hreg
      exact .inr (.inr (.inr (.inl ⟨v, rest, hp, hclear⟩)))
  · obtain ⟨-, hkept⟩ | ⟨e, -, herr⟩ := exec_resultCode hexec
    · exact .inl hkept
    · exact .inr (.inl ⟨e, herr⟩)
  · exact .inr (.inr (.inr (.inr ⟨rest, hp, rfl⟩)))

/-- Writing to ERRACC sets no bit, and clears only bits written as 1 (R27). -/
theorem clearErrors_getLsbD (x v : Byte) (k : Nat) (hk : k < 8) :
    (clearErrors x v).getLsbD k = (x.getLsbD k && !(v.getLsbD k && (k == 1 || k == 2 || k == 3 || k == 5))) := by
  have hmask : ∀ j : Fin 8, (0x2E#8).getLsbD j = (j.val == 1 || j.val == 2 || j.val == 3 || j.val == 5) := by decide
  rw [← hmask ⟨k, hk⟩]
  simp [clearErrors, hk]

/-- Settles O19: the bits of the mask 0x2E are 1, 2, 3 and 5. -/
theorem errAccClearsTheBitsWrittenAsOne : Obligations.ErrAccClearsTheBitsWrittenAsOne := by
  intro s v
  have herrAcc : locate 0x02 = .errAcc := rfl
  exact ⟨_, memWrite_of_locate herrAcc nofun v s, rfl, clearErrors_getLsbD s.errAcc v⟩

/-- Settles O20: of what a step can do to ERRACC, a command's error is one of bits 1 to 3, and a clear sets nothing. -/
theorem badAccessIsSetOnlyByARefusedAccess : Obligations.BadAccessIsSetOnlyByARefusedAccess := by
  intro s t h hs ht
  rcases step_errAcc_cases h with hkept | ⟨e, herr⟩ | ⟨e, rest, hp, href, -⟩ | ⟨v, -, -, hclear⟩ | ⟨-, -, hreset⟩
  · rw [hkept, hs] at ht
    cases ht
  · have hcode := e.code_le
    rw [herr, recordError_getLsbD _ _ (by decide), hs, Bool.false_or, beq_iff_eq] at ht
    omega
  · exact ⟨e, rest, hp, href⟩
  · rw [hclear, clearErrors_getLsbD _ _ _ (by decide), hs] at ht
    cases ht
  · rw [hreset] at ht
    cases ht

/-- Settles O32: recording an error clears nothing, and a clear needs a 1 written to the bit. -/
theorem errorBitsAreSticky : Obligations.ErrorBitsAreSticky := by
  intro s t k h hs ht
  have hk : k < 8 := BitVec.lt_of_getLsbD hs
  rcases step_errAcc_cases h with hkept | ⟨e, herr⟩ | ⟨e, -, -, -, hbad⟩ | ⟨v, rest, hp, hclear⟩ | ⟨rest, hp, -⟩
  · simp [hkept, hs] at ht
  · simp [herr, recordError, hs] at ht
  · simp [hbad, recordBadAccess, hs] at ht
  · rw [hclear, clearErrors_getLsbD _ _ _ hk, hs] at ht
    refine .inl ⟨v, rest, hp, ?_⟩
    by_contra hv
    simp [hv] at ht
  · exact .inr ⟨rest, hp⟩

/-! ## Registers that only some events change -/

/-- A step that runs a command takes it from address 0x00. -/
theorem pending_command {s : State} {a : Addr} {c : Byte} {rest : List HostEvent} (hp : s.pending = .write a c :: rest)
    (ha : locate a = .cmd) : s.pending = .write 0x00 c :: rest := by
  rwa [locate_eq_cmd.1 ha] at hp

/-- Settles O22: reads keep STATUS, and so do writes to registers. -/
theorem statusChangesOnlyByACommandOrReset : Obligations.StatusChangesOnlyByACommandOrReset := by
  intro s t h hne
  rcases step_cases h with ⟨-, rfl⟩ | ⟨a, rest, -, rfl⟩ | ⟨a, v, rest, -, -, rfl⟩ | ⟨a, c, rest, hp, ha, -⟩ |
    ⟨rest, hp, -⟩
  · exact absurd rfl hne
  · exact absurd (hostRead_keeps a _).1 hne
  · exact absurd (writeReg_keeps _ v _).1 hne
  · exact .inl ⟨c, rest, pending_command hp ha⟩
  · exact .inr ⟨rest, hp⟩

/-- Settles O29: of the commands only LDDESC changes ADESC, and its one byte is 0x03. -/
theorem onlyLddescOrResetChangesTheActiveDescriptor : Obligations.OnlyLddescOrResetChangesTheActiveDescriptor := by
  intro s t h hne
  rcases step_cases h with ⟨-, rfl⟩ | ⟨a, rest, -, rfl⟩ | ⟨a, v, rest, -, -, rfl⟩ | ⟨a, c, rest, hp, ha, hexec⟩ |
    ⟨rest, hp, -⟩
  · exact absurd rfl hne
  · exact absurd (hostRead_keeps a _).2.1 hne
  · exact absurd (writeReg_keeps _ v _).2.1 hne
  · have hdecode : Sys2Proof.decode c = .lddesc := (commandsChangeOnlyTheRegistersTheyList _ _ _ hexec).1 hne
    have hc : c = 0x03 := by rw [← encode_decode c, hdecode]; rfl
    exact .inl ⟨rest, hc ▸ pending_command hp ha⟩
  · exact .inr ⟨rest, hp⟩

/-- Settles O27: no operation a step is made of writes the table; reset keeps it (R251). -/
theorem noStepChangesTheNamedTable : Obligations.NoStepChangesTheNamedTable := by
  intro s t h
  rcases step_cases h with ⟨-, rfl⟩ | ⟨a, rest, -, rfl⟩ | ⟨a, v, rest, -, -, rfl⟩ | ⟨a, c, rest, -, -, hexec⟩ |
    ⟨rest, -, rfl⟩
  · rfl
  · obtain ⟨-, -, htable, -⟩ := hostRead_keeps a (s.withPending rest)
    exact htable
  · obtain ⟨-, -, -, -, -, -, -, htable, -⟩ := writeReg_keeps ((s.withPending rest).record ⟨.W, a, v⟩) v (locate a)
    exact htable
  · obtain ⟨-, -, -, -, -, -, -, -, -, -, htable, -⟩ := commandsChangeOnlyTheRegistersTheyList _ _ _ hexec
    exact htable
  · rfl

end Sys2Proof.Machine
end

section
/-! SUPPORT. Proofs about the register window: the map of names and addresses, and the byte a write stores
(spec/10_state.md R21; spec/20_memory.md R63). -/

namespace Sys2Proof.Machine

/-! ## Names and addresses -/

theorem locate_of_address {r : RegName} {a : Addr} (h : r.address = some a) : locate a = r := by
  have hdata : ∀ i : Fin 13, locate (BitVec.ofNat 7 (0x20 + i.val)) = .data i := by decide
  have hframe : ∀ i : Fin 18, locate (BitVec.ofNat 7 (0x40 + i.val)) = .frame i := by decide
  cases r
  case reserved => cases h
  case data i =>
    cases h
    exact hdata i
  case frame i =>
    cases h
    exact hframe i
  all_goals
    cases h
    rfl

theorem address_locate : ∀ a : Addr, locate a ≠ .reserved → (locate a).address = some a := by decide

/-- A register stands at one address only. -/
theorem locate_inj {a b : Addr} (ha : locate a ≠ .reserved) (h : locate a = locate b) : a = b := by
  have haddress := address_locate a ha
  rw [h, address_locate b (h ▸ ha)] at haddress
  exact (Option.some.inj haddress).symm

/-- Settles O11: the address column and the address decode are inverse to each other off the reserved addresses. -/
theorem registerMapIsOneToOne : Obligations.RegisterMapIsOneToOne :=
  ⟨fun _ _ h => locate_of_address h, address_locate⟩

/-! ## The bytes of a 16-bit register -/

section Half
variable (x : Half) (hi lo : Byte)

@[simp] theorem highByte_joinBytes : highByte (joinBytes hi lo) = hi :=
  BitVec.extractLsb'_append_eq_left

@[simp] theorem lowByte_joinBytes : lowByte (joinBytes hi lo) = lo :=
  BitVec.extractLsb'_append_eq_right

/-- The two bytes of a value put together are the value. -/
@[simp] theorem joinBytes_highByte_lowByte : joinBytes (highByte x) (lowByte x) = x :=
  (BitVec.extractLsb'_append_extractLsb'_eq_extractLsb' rfl).trans BitVec.extractLsb'_eq_self

end Half

/-! ## The bytes of the CRC register, by their names -/

section Crc
variable (b3 b2 b1 b0 : Byte)

@[simp] theorem crcByte3_joinCrc : crcByte3 (joinCrc b3 b2 b1 b0) = b3 := joinCrc_byte3 b3 b2 b1 b0

@[simp] theorem crcByte2_joinCrc : crcByte2 (joinCrc b3 b2 b1 b0) = b2 := joinCrc_byte2 b3 b2 b1 b0

@[simp] theorem crcByte1_joinCrc : crcByte1 (joinCrc b3 b2 b1 b0) = b1 := joinCrc_byte1 b3 b2 b1 b0

@[simp] theorem crcByte0_joinCrc : crcByte0 (joinCrc b3 b2 b1 b0) = b0 := joinCrc_byte0 b3 b2 b1 b0

end Crc

/-! ## Reading after writing -/

section ReadAfterWrite
variable {r r' : RegName} (s : State) (v : Byte)

/-- A plain read/write register is one that a host write stores whole (R23): not DESC and not RCLS, which store 0 in
their reserved bits. -/
def RegName.plain (r : RegName) : Prop := r.access = .readWrite ∧ r ≠ .desc ∧ r ≠ .rcls

theorem readReg_writeReg_self (hr : r.plain) : (s.writeReg v r).readReg r = v := by
  obtain ⟨haccess, hdesc, hrcls⟩ := hr
  cases r
  case desc | rcls => contradiction
  case flags | flen => rfl
  case crc3 | crc2 | crc1 | crc0 | fidH | fidL | rargH | rargL | data | frame => simp [State.writeReg, State.readReg]
  all_goals cases haccess

/-- A byte written to a read/write register shows at no other register. -/
theorem readReg_writeReg_of_ne (hr : r.access = .readWrite) (hne : r' ≠ r) :
    (s.writeReg v r).readReg r' = s.readReg r' := by
  cases r
  case desc | flags | flen | rcls | crc3 | crc2 | crc1 | crc0 | fidH | fidL | rargH | rargL =>
    cases r' <;> simp_all [State.writeReg, State.readReg]
  case data i =>
    cases r'
    case data j =>
      have hij : i.val ≠ j.val := fun h => hne (congrArg RegName.data (Fin.ext h.symm))
      exact Vector.getElem_set_ne i.isLt j.isLt hij
    all_goals rfl
  case frame i =>
    cases r'
    case frame j =>
      have hij : i.val ≠ j.val := fun h => hne (congrArg RegName.frame (Fin.ext h.symm))
      exact Vector.getElem_set_ne i.isLt j.isLt hij
    all_goals rfl
  all_goals cases hr

end ReadAfterWrite

/-- The read/write addresses without reserved bits hold plain registers. -/
theorem locate_plain : ∀ a : Addr,
    a ∈ [0x06#7, 0x07#7, 0x0C#7, 0x0D#7, 0x0E#7, 0x0F#7, 0x10#7, 0x11#7, 0x16#7, 0x17#7] ∨
      (0x20 ≤ a.toNat ∧ a.toNat ≤ 0x2C) ∨ (0x40 ≤ a.toNat ∧ a.toNat ≤ 0x51) → (locate a).plain := by
  unfold RegName.plain
  decide

/-- Settles O14: two addresses hold two registers, and a byte written to one shows at that one alone. -/
theorem writtenByteIsReadBackAndNothingElseMoves : Obligations.WrittenByteIsReadBackAndNothingElseMoves := by
  intro s a v ha
  have hplain := locate_plain a ha
  have hcmd : locate a ≠ .cmd := fun h => by simp [RegName.plain, h, RegName.access] at hplain
  have hres : locate a ≠ .reserved := fun h => by simp [RegName.plain, h, RegName.access] at hplain
  obtain ⟨-, -, -, -, -, -, -, htable, hpending, hlog⟩ := writeReg_keeps s v (locate a)
  refine ⟨_, memWrite_of_locate rfl hcmd v s, ?_, fun b hb => ?_, htable, hpending, hlog⟩
  · rw [memRead_fst]
    exact readReg_writeReg_self s v hplain
  · have hne : locate b ≠ locate a := fun h => hb (locate_inj hres h.symm).symm
    rw [memRead_fst, memRead_fst]
    exact readReg_writeReg_of_ne s v hplain.1 hne

end Sys2Proof.Machine
end

section
/-! SUPPORT. Proofs about ENCODE and DECODE as a pair (spec/41_safety_codec.md R130, R154, R155 and section 5): the
sub-frame a buffer holds, the two round trips, and what the commands depend on. -/

namespace Sys2Proof.Machine

/-! ## The sub-frame that a buffer holds -/

/-- The CRC field of R130, the most significant byte first: four bytes under Seed, the three low ones under NoSeed. -/
def crcBytes (mode : SeedMode) (crc : Quad) : List Byte :=
  match mode with
  | .seed => [crcByte3 crc, crcByte2 crc, crcByte1 crc, crcByte0 crc]
  | .noSeed => [crcByte2 crc, crcByte1 crc, crcByte0 crc]

theorem crcBytes_length (mode : SeedMode) (crc : Quad) : (crcBytes mode crc).length = mode.crcWidth := by
  cases mode <;> rfl

/-- The first L bytes of `frame` are the data bytes, the flag byte and the CRC field (R130). -/
structure HoldsFields (d : Descriptor) (data : Vector Byte 13) (flags : Byte) (crc : Quad) (frame : Vector Byte 18) :
    Prop where
  data : ∀ i, i < d.dataLength → frame[i]? = data[i]?
  flags : frame[d.dataLength]? = some flags
  crc : ∀ j, j < d.seed.crcWidth → frame[d.dataLength + 1 + j]? = (crcBytes d.seed crc)[j]?

/-- An index below L lies in the data, at the flag byte or in the CRC field. -/
theorem Descriptor.index_cases {d : Descriptor} {i : Nat} (hi : i < d.frameLength) :
    i < d.dataLength ∨ i = d.dataLength ∨ ∃ j, j < d.seed.crcWidth ∧ i = d.dataLength + 1 + j := by
  unfold Descriptor.frameLength at hi
  rcases Nat.lt_trichotomy i d.dataLength with hlt | heq | hgt
  · exact .inl hlt
  · exact .inr (.inl heq)
  · exact .inr (.inr ⟨i - (d.dataLength + 1), by omega, by omega⟩)

section Hold
variable {d : Descriptor} {data data' : Vector Byte 13} {flags : Byte} {crc crc' : Quad} {frame frame' : Vector Byte 18}

/-- What ENCODE packs holds the fields it packed (R140, R143). -/
theorem holdsFields_packFrame (hd : d.inBounds = true) :
    HoldsFields d data flags crc (packFrame d data flags crc frame) where
  data _ hi := packFrame_data hd hi
  flags := packFrame_flags hd
  crc j hj := by
    cases hseed : d.seed with
    | seed =>
      rw [hseed, SeedMode.crcWidth] at hj
      obtain ⟨h3, h2, h1, h0⟩ :=
        packFrame_crc_seed (data := data) (flags := flags) (crc := crc) (frame := frame) hd hseed
      interval_cases j <;> assumption
    | noSeed =>
      rw [hseed, SeedMode.crcWidth] at hj
      obtain ⟨h2, h1, h0⟩ :=
        packFrame_crc_noSeed (data := data) (flags := flags) (crc := crc) (frame := frame) hd hseed
      interval_cases j <;> assumption

/-- A buffer holds the fields that DECODE takes out of it (R150, R152). -/
theorem holdsFields_unpack (hd : d.inBounds = true) :
    HoldsFields d (copyBytes frame d.dataLength data) (byteAt frame d.dataLength)
      (takeCrc d.seed (d.dataLength + 1) frame) frame where
  data _ hi := by
    obtain ⟨hdata, -⟩ := d.lengths_of_inBounds hd
    exact (copyBytes_getElem?_of_lt hi (hdata.trans (by decide)) hdata).symm
  flags := getElem?_eq_byteAt frame (d.dataLength_lt_frameLength.trans_le (d.lengths_of_inBounds hd).2)
  crc j hj := by
    cases hseed : d.seed with
    | seed =>
      rw [hseed, SeedMode.crcWidth] at hj
      obtain ⟨h3, h2, h1, h0⟩ := takeCrc_seed (frame := frame) hd hseed
      rw [hseed] at h3 h2 h1 h0
      interval_cases j <;> assumption
    | noSeed =>
      rw [hseed, SeedMode.crcWidth] at hj
      obtain ⟨-, h2, h1, h0⟩ := takeCrc_noSeed (frame := frame) hd hseed
      rw [hseed] at h2 h1 h0
      interval_cases j <;> assumption

namespace HoldsFields

/-- Only the first D data bytes and the bytes of the CRC field matter. -/
theorem congr (h : HoldsFields d data flags crc frame) (hdata : ∀ i, i < d.dataLength → data[i]? = data'[i]?)
    (hcrc : crcBytes d.seed crc = crcBytes d.seed crc') : HoldsFields d data' flags crc' frame where
  data i hi := (h.data i hi).trans (hdata i hi)
  flags := h.flags
  crc j hj := hcrc ▸ h.crc j hj

/-- Two buffers that hold the same fields have the same first L bytes. -/
theorem agree (h : HoldsFields d data flags crc frame) (h' : HoldsFields d data flags crc frame') {i : Nat}
    (hi : i < d.frameLength) : frame[i]? = frame'[i]? := by
  rcases d.index_cases hi with hlt | rfl | ⟨j, hj, rfl⟩
  · rw [h.data i hlt, h'.data i hlt]
  · rw [h.flags, h'.flags]
  · rw [h.crc j hj, h'.crc j hj]

/-- The fields as one byte string, in the order of transmission (R130). -/
theorem toList_take (h : HoldsFields d data flags crc frame) (hd : d.inBounds = true) :
    frame.toList.take d.frameLength = data.toList.take d.dataLength ++ flags :: crcBytes d.seed crc := by
  obtain ⟨hdata, hframe⟩ := d.lengths_of_inBounds hd
  have hlength : (data.toList.take d.dataLength).length = d.dataLength := by simp [hdata]
  refine List.ext_getElem? fun i => ?_
  by_cases hi : i < d.frameLength
  · rw [List.getElem?_take_of_lt hi, Vector.getElem?_toList]
    rcases d.index_cases hi with hlt | rfl | ⟨j, hj, rfl⟩
    · rw [h.data i hlt, List.getElem?_append_left (by omega), List.getElem?_take_of_lt hlt,
        Vector.getElem?_toList]
    · rw [h.flags, List.getElem?_append_right hlength.le, hlength, Nat.sub_self, List.getElem?_cons_zero]
    · have hsub : d.dataLength + 1 + j - d.dataLength = j + 1 := by omega
      rw [h.crc j hj, List.getElem?_append_right (by omega), hlength, hsub, List.getElem?_cons_succ]
  · have hend := Nat.not_lt.1 hi
    rw [List.getElem?_eq_none (by simp; omega), List.getElem?_eq_none]
    rw [List.length_append, List.length_cons, hlength, crcBytes_length]
    unfold Descriptor.frameLength at hend
    omega

/-- DECODE's data moves over a buffer that holds DATA change nothing. -/
theorem copyBytes_eq (h : HoldsFields d data flags crc frame) (hd : d.inBounds = true) :
    copyBytes frame d.dataLength data = data := by
  obtain ⟨hdata, -⟩ := d.lengths_of_inBounds hd
  refine buffer_ext fun i _ => ?_
  by_cases hi : i < d.dataLength
  · rw [copyBytes_getElem?_of_lt hi (hdata.trans (by decide)) hdata, h.data i hi]
  · exact copyBytes_getElem?_of_ge (Nat.not_lt.1 hi)

end HoldsFields

theorem byteAt_eq_getD {n : Nat} (v : Vector Byte n) (i : Nat) : byteAt v i = v[i]?.getD 0 := by
  by_cases hi : i < n <;> simp [byteAt, hi]

namespace HoldsFields

theorem byteAt_flags (h : HoldsFields d data flags crc frame) : byteAt frame d.dataLength = flags := by
  rw [byteAt_eq_getD, h.flags, Option.getD_some]

theorem byteAt_crc (h : HoldsFields d data flags crc frame) {j : Nat} (hj : j < d.seed.crcWidth) :
    byteAt frame (d.dataLength + 1 + j) = (crcBytes d.seed crc)[j]?.getD 0 := by
  rw [byteAt_eq_getD, h.crc j hj]

/-- Under Seed DECODE takes the whole CRC out again. -/
theorem takeCrc_of_seed (h : HoldsFields d data flags crc frame) (hseed : d.seed = .seed) :
    takeCrc d.seed (d.dataLength + 1) frame = crc := by
  have hbyte {j : Nat} := h.byteAt_crc (j := j)
  rw [hseed] at hbyte
  have h3 : byteAt frame (d.dataLength + 1) = crcByte3 crc := hbyte (j := 0) (by decide)
  have h2 : byteAt frame (d.dataLength + 1 + 1) = crcByte2 crc := hbyte (j := 1) (by decide)
  have h1 : byteAt frame (d.dataLength + 1 + 2) = crcByte1 crc := hbyte (j := 2) (by decide)
  have h0 : byteAt frame (d.dataLength + 1 + 3) = crcByte0 crc := hbyte (j := 3) (by decide)
  rw [hseed, takeCrc, h3, h2, h1, h0, joinCrc_bytes]

/-- Under NoSeed DECODE takes the three low bytes out and clears the top one (R152). -/
theorem takeCrc_of_noSeed (h : HoldsFields d data flags crc frame) (hseed : d.seed = .noSeed) :
    takeCrc d.seed (d.dataLength + 1) frame = 0x00#8 ++ crc.extractLsb' 0 24 := by
  have hbyte {j : Nat} := h.byteAt_crc (j := j)
  rw [hseed] at hbyte
  have h2 : byteAt frame (d.dataLength + 1) = crcByte2 crc := hbyte (j := 0) (by decide)
  have h1 : byteAt frame (d.dataLength + 1 + 1) = crcByte1 crc := hbyte (j := 1) (by decide)
  have h0 : byteAt frame (d.dataLength + 1 + 2) = crcByte0 crc := hbyte (j := 2) (by decide)
  rw [hseed, takeCrc, h2, h1, h0, joinCrc_low_bytes]

end HoldsFields

end Hold

/-! ## The two round trips, and the byte string -/

/-- Settles O44: FLEN is L, and FRAME holds the fields packed into it. -/
theorem encodedBytesAreDataFlagsCrc : Obligations.EncodedBytesAreDataFlagsCrc := by
  intro s hlegal hvalid
  have hd := hlegal.adescBounds
  refine ⟨_, exec_encode_of_valid hvalid, ?_⟩
  rw [State.succeed_frame, State.packFields_frame, State.succeed_flen, State.packFields_flen,
    Descriptor.frameLength_toNat hd, (holdsFields_packFrame hd).toList_take hd, descriptorOf_dataLength,
    descriptorOf_seed, List.append_assoc, List.append_assoc]
  split <;> rfl

/-- Settles O52: ENCODE leaves FLEN at L, so DECODE succeeds and takes out of FRAME the fields that it holds. -/
theorem decodeAfterEncodeGivesTheFieldsBack : Obligations.DecodeAfterEncodeGivesTheFieldsBack := by
  intro s hlegal hvalid
  have hd := hlegal.adescBounds
  have hlength := Descriptor.frameLength_toNat hd
  have hholds := holdsFields_packFrame (data := s.data) (flags := s.flags) (crc := s.crc) (frame := s.frame) hd
  refine ⟨_, _, exec_encode_of_valid hvalid, exec_decode_of_complete hvalid hlength.ge, hholds.copyBytes_eq hd,
    hholds.byteAt_flags, ?crc, ?cons, errField_succeed _⟩
  case crc =>
    split
    case isTrue hseed => exact hholds.takeCrc_of_seed (descriptorOf_seed_of_set hseed)
    case isFalse hseed => exact hholds.takeCrc_of_noSeed (descriptorOf_seed_of_clear (Bool.eq_false_iff.2 hseed))
  case cons =>
    rw [← descriptorOf_frameLength]
    exact hlength

/-- What DECODE takes out of a buffer and ENCODE packs into it again is already there; the bytes from L on stay. -/
theorem packFrame_unpack {d : Descriptor} (hd : d.inBounds = true) (data : Vector Byte 13) (frame : Vector Byte 18) :
    packFrame d (copyBytes frame d.dataLength data) (byteAt frame d.dataLength)
      (takeCrc d.seed (d.dataLength + 1) frame) frame = frame := by
  refine buffer_ext fun i _ => ?_
  by_cases hi : i < d.frameLength
  · exact (holdsFields_packFrame hd).agree (holdsFields_unpack hd) hi
  · exact packFrame_tail (Nat.not_lt.1 hi)

/-- Settles O53: DECODE keeps FRAME and ADESC, and the fields it leaves are those FRAME holds. -/
theorem encodeAfterDecodeGivesTheFrameBack : Obligations.EncodeAfterDecodeGivesTheFrameBack := by
  intro s hlegal hvalid hcomplete
  have hd := hlegal.adescBounds
  rw [← descriptorOf_frameLength] at hcomplete ⊢
  exact ⟨_, _, exec_decode_of_complete hvalid hcomplete, exec_encode_of_valid hvalid,
    packFrame_unpack hd s.data s.frame, Descriptor.frameLength_toNat hd, errField_succeed _⟩

/-! ## What ENCODE and DECODE depend on -/

/-- CRC[23:0] gives the three low bytes of CRC. -/
theorem crcBytes_noSeed_congr {x y : Quad} (h : x.extractLsb' 0 24 = y.extractLsb' 0 24) :
    crcBytes .noSeed x = crcBytes .noSeed y := by
  have hjoin : joinCrc 0x00 (crcByte2 x) (crcByte1 x) (crcByte0 x) =
      joinCrc 0x00 (crcByte2 y) (crcByte1 y) (crcByte0 y) := by
    rw [joinCrc_low_bytes, joinCrc_low_bytes, h]
  have h2 := congrArg crcByte2 hjoin
  have h1 := congrArg crcByte1 hjoin
  have h0 := congrArg crcByte0 hjoin
  simp only [crcByte2_joinCrc, crcByte1_joinCrc, crcByte0_joinCrc] at h2 h1 h0
  simp only [crcBytes, h2, h1, h0]

/-- Every raise of one error leaves the same code, whatever the state was. -/
theorem errField_raise (s : State) (e : CmdError) : (s.raise e).status.extractLsb' 0 3 = e.code :=
  errField_setErr s.status e.code

/-- Settles O50: VALID, which the two states share, selects the branch; with it both FRAMEs hold the fields of the
first state. -/
theorem encodeDependsOnlyOnItsInputs : Obligations.EncodeDependsOnlyOnItsInputs := by
  intro s s' t t' hlegal ht ht' hadesc hflags hdata hseed hlow
  have hd := hlegal.adescBounds
  cases hvalid : validBit s.adesc with
  | false =>
    obtain rfl := Host.Outcome.next.inj ((exec_encode_of_invalid hvalid).symm.trans ht)
    obtain rfl := Host.Outcome.next.inj ((exec_encode_of_invalid (hadesc ▸ hvalid)).symm.trans ht')
    refine ⟨by rw [errField_raise, errField_raise], fun hset => ?_⟩
    cases hvalid.symm.trans hset
  | true =>
    obtain rfl := Host.Outcome.next.inj ((exec_encode_of_valid hvalid).symm.trans ht)
    obtain rfl := Host.Outcome.next.inj ((exec_encode_of_valid (hadesc ▸ hvalid)).symm.trans ht')
    rw [← descriptorOf_frameLength]
    refine ⟨by rw [errField_succeed, errField_succeed], fun _ => ?_⟩
    simp only [State.succeed_flen, State.succeed_cons, State.succeed_frame, State.packFields_flen,
      State.packFields_cons, State.packFields_frame, ← hadesc, ← hflags]
    refine ⟨trivial, trivial, fun i hi => ?_⟩
    have hcrc : crcBytes (descriptorOf s.adesc).seed s'.crc = crcBytes (descriptorOf s.adesc).seed s.crc := by
      rw [descriptorOf_seed]
      split
      case isTrue hset => rw [hseed hset]
      case isFalse => exact crcBytes_noSeed_congr hlow.symm
    have hholds := holdsFields_packFrame (data := s'.data) (flags := s.flags) (crc := s'.crc) (frame := s'.frame) hd
    exact (holdsFields_packFrame hd).agree (hholds.congr (fun i hi => (hdata i hi).symm) hcrc) hi

/-- The CRC field lies below L, so buffers that agree below L give the same CRC. -/
theorem takeCrc_congr {d : Descriptor} {frame frame' : Vector Byte 18}
    (h : ∀ i, i < d.frameLength → byteAt frame i = byteAt frame' i) :
    takeCrc d.seed (d.dataLength + 1) frame = takeCrc d.seed (d.dataLength + 1) frame' := by
  cases hseed : d.seed with
  | seed =>
    have hlength := d.frameLength_of_seed hseed
    rw [takeCrc, takeCrc, h _ (by omega), h _ (by omega), h _ (by omega), h _ (by omega)]
  | noSeed =>
    have hlength := d.frameLength_of_noSeed hseed
    rw [takeCrc, takeCrc, h _ (by omega), h _ (by omega), h _ (by omega)]

/-- Settles O51: VALID and FLEN, which the two states share, select the branch; every byte DECODE takes out lies below
L. -/
theorem decodeDependsOnlyOnItsInputs : Obligations.DecodeDependsOnlyOnItsInputs := by
  intro s s' t t' hlegal ht ht' hadesc hflen hframe
  have hd := hlegal.adescBounds
  rw [← descriptorOf_frameLength] at hframe
  cases hvalid : validBit s.adesc with
  | false =>
    obtain rfl := Host.Outcome.next.inj ((exec_decode_of_invalid hvalid).symm.trans ht)
    obtain rfl := Host.Outcome.next.inj ((exec_decode_of_invalid (hadesc ▸ hvalid)).symm.trans ht')
    rw [errField_raise, errField_raise]
    exact ⟨rfl, fun hzero => absurd hzero (CmdError.code_ne_zero _)⟩
  | true =>
    by_cases hshort : s.flen.toNat < (descriptorOf s.adesc).frameLength
    · obtain rfl := Host.Outcome.next.inj ((exec_decode_of_short hvalid hshort).symm.trans ht)
      obtain rfl := Host.Outcome.next.inj
        ((exec_decode_of_short (hadesc ▸ hvalid) (hadesc ▸ hflen ▸ hshort)).symm.trans ht')
      rw [errField_raise, errField_raise]
      exact ⟨rfl, fun hzero => absurd hzero (CmdError.code_ne_zero _)⟩
    · have hcomplete := Nat.not_lt.1 hshort
      obtain rfl := Host.Outcome.next.inj ((exec_decode_of_complete hvalid hcomplete).symm.trans ht)
      obtain rfl := Host.Outcome.next.inj
        ((exec_decode_of_complete (hadesc ▸ hvalid) (hadesc ▸ hflen ▸ hcomplete)).symm.trans ht')
      have hbyte (i : Nat) (hi : i < (descriptorOf s.adesc).frameLength) : byteAt s.frame i = byteAt s'.frame i := by
        rw [byteAt_eq_getD, byteAt_eq_getD, hframe i hi]
      refine ⟨by rw [errField_succeed, errField_succeed], fun _ => ?_⟩
      simp only [State.succeed_flags, State.succeed_crc, State.succeed_cons, State.succeed_data,
        State.unpackFields_flags, State.unpackFields_crc, State.unpackFields_cons, State.unpackFields_data, ← hadesc]
      refine ⟨hbyte _ (Descriptor.dataLength_lt_frameLength _), takeCrc_congr hbyte, trivial, fun i hi => ?_⟩
      rw [← descriptorOf_dataLength] at hi
      have hin := hi.trans (Descriptor.dataLength_lt_frameLength _)
      obtain ⟨hdata, -⟩ := Descriptor.lengths_of_inBounds hd
      have hdata' := hdata.trans (by decide : 13 ≤ 18)
      rw [copyBytes_getElem?_of_lt hi hdata' hdata, copyBytes_getElem?_of_lt hi hdata' hdata, hframe i hin]

end Sys2Proof.Machine
end

section
/-! SUPPORT. Proofs about what ENCODE and DECODE leave alone and what has no effect on them (spec/41_safety_codec.md
R135 and sections 3, 4; spec/70_reset_and_hazards.md R262). -/

namespace Sys2Proof.Machine

/-! ## The window after a successful ENCODE or DECODE -/

/-- An address that locates a register is that register's address. -/
theorem eq_of_locate_eq {a b : Addr} {r : RegName} (h : locate a = r) (hr : r.address = some b) : a = b := by
  have hres : locate a ≠ .reserved := fun hres => by
    rw [← h, hres] at hr
    cases hr
  exact locate_inj hres (h.trans (locate_of_address hr).symm)

/-- A register reads the same after ENCODE unless it is STATUS, FLEN, CONS or a byte of FRAME below L. -/
theorem readReg_packFields {r : RegName} (s : State) (d : Descriptor) (hr : r ∉ [.status, .flen, .cons])
    (hframe : ∀ i, r = .frame i → d.frameLength ≤ i.val) : (s.packFields d).succeed.readReg r = s.readReg r := by
  cases r
  case status | flen | cons => simp at hr
  case frame i =>
    have htail := packFrame_tail (data := s.data) (flags := s.flags) (crc := s.crc) (frame := s.frame) (hframe i rfl)
    rw [Vector.getElem?_eq_getElem i.isLt, Vector.getElem?_eq_getElem i.isLt] at htail
    exact Option.some.inj htail
  all_goals rfl

/-- Where ENCODE's registers outside FRAME stand (R21). -/
theorem encode_addresses : ∀ a : Addr, locate a ∈ [.status, .flen, .cons] → a ∈ [0x01#7, 0x07#7, 0x08#7] := by
  decide

/-- Settles O45: the registers that ENCODE writes stand at the addresses left out. -/
theorem encodeLeavesTheOtherAddresses : Obligations.EncodeLeavesTheOtherAddresses := by
  intro s t a _ hvalid ht ha hframe
  obtain rfl := Host.Outcome.next.inj ((exec_encode_of_valid hvalid).symm.trans ht)
  rw [← descriptorOf_frameLength] at hframe
  rw [memRead_fst, memRead_fst]
  refine readReg_packFields s _ (mt (encode_addresses a) ha) fun i hi => ?_
  obtain rfl := eq_of_locate_eq hi rfl
  rw [BitVec.toNat_ofNat] at hframe
  omega

/-- DECODE leaves code 0 on one branch only: VALID is set and FLEN is at least L. -/
theorem exec_decode_success {s t : State} (h : exec .decode s = .next t) (hok : t.status.extractLsb' 0 3 = 0#3) :
    t = (s.unpackFields (descriptorOf s.adesc)).succeed := by
  cases hvalid : validBit s.adesc with
  | false =>
    obtain rfl := Host.Outcome.next.inj ((exec_decode_of_invalid hvalid).symm.trans h)
    exact absurd ((errField_raise s _).symm.trans hok) (CmdError.code_ne_zero _)
  | true =>
    by_cases hshort : s.flen.toNat < (descriptorOf s.adesc).frameLength
    · obtain rfl := Host.Outcome.next.inj ((exec_decode_of_short hvalid hshort).symm.trans h)
      exact absurd ((errField_raise s _).symm.trans hok) (CmdError.code_ne_zero _)
    · exact Host.Outcome.next.inj (h.symm.trans (exec_decode_of_complete hvalid (Nat.not_lt.1 hshort)))

/-- A register reads the same after DECODE unless it is STATUS, FLAGS, CONS, a byte of CRC or a byte of DATA below D. -/
theorem readReg_unpackFields {r : RegName} (s : State) (d : Descriptor)
    (hr : r ∉ [.status, .flags, .cons, .crc3, .crc2, .crc1, .crc0])
    (hdata : ∀ i, r = .data i → d.dataLength ≤ i.val) : (s.unpackFields d).succeed.readReg r = s.readReg r := by
  cases r
  case status | flags | cons | crc3 | crc2 | crc1 | crc0 => simp at hr
  case data i =>
    have htail := copyBytes_getElem?_of_ge (src := s.frame) (dst := s.data) (hdata i rfl)
    rw [Vector.getElem?_eq_getElem i.isLt, Vector.getElem?_eq_getElem i.isLt] at htail
    exact Option.some.inj htail
  all_goals rfl

/-- Where DECODE's registers outside DATA stand (R21). -/
theorem decode_addresses : ∀ a : Addr, locate a ∈ [.status, .flags, .cons, .crc3, .crc2, .crc1, .crc0] →
    a ∈ [0x01#7, 0x06#7, 0x08#7, 0x0C#7, 0x0D#7, 0x0E#7, 0x0F#7] := by
  decide

/-- Settles O47: the registers that DECODE writes stand at the addresses left out. -/
theorem decodeLeavesTheOtherAddresses : Obligations.DecodeLeavesTheOtherAddresses := by
  intro s t a ht hok ha hdata
  obtain rfl := exec_decode_success ht hok
  rw [memRead_fst, memRead_fst]
  refine readReg_unpackFields s _ (mt (decode_addresses a) ha) fun i hi => ?_
  obtain rfl := eq_of_locate_eq hi rfl
  rw [BitVec.toNat_ofNat] at hdata
  rw [descriptorOf_dataLength]
  omega

/-! ## Registers without effect on ENCODE and DECODE -/

section Commute
variable {s t : State} (u : State → State)

/-- An update of the state that commutes with both ends of ENCODE and keeps VALID commutes with ENCODE. -/
theorem exec_encode_commutes (hvalid : validBit (u s).adesc = validBit s.adesc)
    (hraise : (u s).raise .invalidDescriptor = u (s.raise .invalidDescriptor))
    (hpack : (State.packFields (u s) (descriptorOf (u s).adesc)).succeed =
      u (s.packFields (descriptorOf s.adesc)).succeed)
    (h : exec .encode s = .next t) : exec .encode (u s) = .next (u t) := by
  cases hv : validBit s.adesc with
  | false =>
    obtain rfl := Host.Outcome.next.inj ((exec_encode_of_invalid hv).symm.trans h)
    rw [exec_encode_of_invalid (hvalid.trans hv), hraise]
  | true =>
    obtain rfl := Host.Outcome.next.inj ((exec_encode_of_valid hv).symm.trans h)
    rw [exec_encode_of_valid (hvalid.trans hv), hpack]

/-- An update of the state that commutes with the three ends of DECODE and keeps VALID, L and FLEN commutes with
DECODE. -/
theorem exec_decode_commutes (hvalid : validBit (u s).adesc = validBit s.adesc)
    (hlength : (descriptorOf (u s).adesc).frameLength = (descriptorOf s.adesc).frameLength)
    (hflen : (u s).flen = s.flen) (hraise : ∀ e, (u s).raise e = u (s.raise e))
    (hunpack : (State.unpackFields (u s) (descriptorOf (u s).adesc)).succeed =
      u (s.unpackFields (descriptorOf s.adesc)).succeed)
    (h : exec .decode s = .next t) : exec .decode (u s) = .next (u t) := by
  cases hv : validBit s.adesc with
  | false =>
    obtain rfl := Host.Outcome.next.inj ((exec_decode_of_invalid hv).symm.trans h)
    rw [exec_decode_of_invalid (hvalid.trans hv), hraise]
  | true =>
    by_cases hshort : s.flen.toNat < (descriptorOf s.adesc).frameLength
    · obtain rfl := Host.Outcome.next.inj ((exec_decode_of_short hv hshort).symm.trans h)
      rw [exec_decode_of_short (hvalid.trans hv) (by rwa [hflen, hlength]), hraise]
    · have hcomplete := Nat.not_lt.1 hshort
      obtain rfl := Host.Outcome.next.inj ((exec_decode_of_complete hv hcomplete).symm.trans h)
      rw [exec_decode_of_complete (hvalid.trans hv) (by rwa [hflen, hlength]), hunpack]

end Commute

/-- The other direction's ADESC byte has the same VALID, seed mode and D (R30, R31). -/
theorem flipDirection_fields : ∀ b : Byte, validBit (b ^^^ 0x01#8) = validBit b ∧
    descriptorOf (b ^^^ 0x01#8) = { descriptorOf b with dir := (descriptorOf (b ^^^ 0x01#8)).dir } := by
  decide

/-- Settles O48: the byte moves and lengths read the seed mode and D of a descriptor, never its direction. -/
theorem directionChangesNoByte : Obligations.DirectionChangesNoByte := by
  intro s t
  obtain ⟨hvalid, hdir⟩ := flipDirection_fields s.adesc
  constructor
  · refine exec_encode_commutes (fun x => { x with adesc := s.adesc ^^^ 0x01#8 }) hvalid rfl ?_
    rw [hdir]
    rfl
  · refine exec_decode_commutes (fun x => { x with adesc := s.adesc ^^^ 0x01#8 }) hvalid ?_ rfl (fun _ => rfl) ?_ <;>
    · rw [hdir]
      rfl

/-- Settles O49: no end of ENCODE or DECODE reads DESC. -/
theorem stagedDescriptorHasNoEffectOnTheCodec : Obligations.StagedDescriptorHasNoEffectOnTheCodec :=
  fun _ _ v => ⟨exec_encode_commutes (fun x => { x with desc := v }) rfl rfl rfl,
    exec_decode_commutes (fun x => { x with desc := v }) rfl rfl rfl (fun _ => rfl) rfl⟩

end Sys2Proof.Machine
end

section
/-! SUPPORT. Proofs about the flag names and runs of host statements (spec/10_state.md R33, R34; spec/30_encoding.md R88,
R89). -/

namespace Sys2Proof.Machine

/-! ## Flag names -/

/-- A name is the one that stands at its bit in the set of its direction. -/
theorem flagAt_dir_bit (f : FlagName) : flagAt f.dir f.bit = f := by
  cases f with
  | control f => cases f <;> rfl
  | status f => cases f <;> rfl

theorem flagAt_fields : ∀ (d : Direction) (k : Fin 8), (flagAt d k).bit = k ∧ (flagAt d k).dir = d
  | .control => by decide
  | .status => by decide

/-- Settles O55: the two lists by evaluation, and `flagAt` as the inverse of a name's direction and bit. -/
theorem flagNamesStandInListOrder : Obligations.FlagNamesStandInListOrder :=
  ⟨rfl, rfl, flagAt_fields, flagAt_dir_bit⟩

/-! ## Runs of host accesses -/

section Run
variable {s : State} {a : Addr} {v : Byte} {rest : List HostEvent} {r : RegName}

theorem run_zero (s : State) : core.run 0 s = .next s := rfl

theorem run_succ {s t : State} (h : step s = .next t) (k : Nat) : core.run (k + 1) s = core.run k t := by
  have hcore : core.step s = .next t := h
  simp only [Host.Core.run, hcore]

/-- A run that begins with a write to a register goes on from that write. -/
theorem run_write (h : s.pending = .write a v :: rest) (ha : locate a = r) (hr : r ≠ .cmd) (k : Nat) :
    core.run (k + 1) s = core.run k (((s.withPending rest).record ⟨.W, a, v⟩).writeReg v r) := by
  subst ha
  exact run_succ (step_write h hr) k

/-- A run that begins with a read of a register goes on with the byte on the log. -/
theorem run_read (h : s.pending = .read a :: rest) (ha : locate a = r) (hr : r ≠ .reserved) (k : Nat) :
    core.run (k + 1) s = core.run k ((s.withPending rest).record ⟨.R, a, s.readReg r⟩) := by
  subst ha
  rw [run_succ (step_read h), hostRead_of_ne_reserved hr, byteOf_withPending]
  rfl

end Run

/-- Settles O57: the two addresses are those of the register's high and low byte. -/
theorem wideReadGivesHighThenLowByte : Obligations.WideReadGivesHighThenLowByte := by
  intro s rest r h
  cases r with
  | fid => exact ⟨_, (run_read (r := .fidH) h rfl nofun 1).trans (run_read (r := .fidL) rfl rfl nofun 0), rfl⟩
  | rarg => exact ⟨_, (run_read (r := .rargH) h rfl nofun 1).trans (run_read (r := .rargL) rfl rfl nofun 0), rfl⟩
  | fout => exact ⟨_, (run_read (r := .foutH) h rfl nofun 1).trans (run_read (r := .foutL) rfl rfl nofun 0), rfl⟩

/-! ## What the setting pseudo-instructions write -/

/-- SETDESC's byte describes the descriptor it was made of, and DESC stores all of it (R30, R175). -/
theorem descriptorOf_stagedByte (dir : Direction) (mode : SeedMode) (d : BitVec 4) :
    descriptorOf (stagedByte dir mode d &&& 0xF3#8) = ⟨dir, mode, d⟩ := by
  revert d
  cases dir <;> cases mode <;> decide

/-- RCLS stores all of SETRCLS's byte. -/
theorem rclsMask_setRcls : ∀ k : BitVec 3, ((0b00000#5 ++ k) &&& 0x07#8).extractLsb' 0 3 = k := by decide

/-- CLRERR's byte has a 1 at every writable bit of ERRACC (R27). -/
theorem clearErrors_all : ∀ x : Byte, clearErrors x 0x2E &&& 0x2E#8 = 0 := by decide

/-- Settles O56: one register write a step. The two bytes of FID_IN and RARG and the four of CRC join to the value, and
the masks of DESC, RCLS and ERRACC drop no bit of the bytes that these expansions write. -/
theorem settingPseudoInstructionsLoadTheirRegisters : Obligations.SettingPseudoInstructionsLoadTheirRegisters := by
  intro s rest
  refine ⟨fun v h => ?fid, fun v h => ?rarg, fun v h => ?crc, fun dir mode d h => ?desc, fun k h => ?rcls,
    fun h => ?errAcc, fun i v h => ?data, fun i v h => ?frame⟩
  case fid =>
    refine ⟨_, (run_write (r := .fidH) h rfl nofun 1).trans (run_write (r := .fidL) rfl rfl nofun 0), ?_⟩
    change @Eq State _ _
    simp [State.writeReg, State.record, State.withPending]
  case rarg =>
    refine ⟨_, (run_write (r := .rargH) h rfl nofun 1).trans (run_write (r := .rargL) rfl rfl nofun 0), ?_⟩
    change @Eq State _ _
    simp [State.writeReg, State.record, State.withPending]
  case crc =>
    refine ⟨_, (run_write (r := .crc3) h rfl nofun 3).trans ((run_write (r := .crc2) rfl rfl nofun 2).trans
      ((run_write (r := .crc1) rfl rfl nofun 1).trans (run_write (r := .crc0) rfl rfl nofun 0))), ?_⟩
    change @Eq State _ _
    simp [State.writeReg, State.record, State.withPending, joinCrc_bytes]
  case desc => exact ⟨_, run_write (r := .desc) h rfl nofun 0, descriptorOf_stagedByte dir mode d, rfl⟩
  case rcls => exact ⟨_, run_write (r := .rcls) h rfl nofun 0, rclsMask_setRcls k, rfl⟩
  case errAcc => exact ⟨_, run_write (r := .errAcc) h rfl nofun 0, clearErrors_all s.errAcc, rfl⟩
  case data => exact ⟨_, run_write (r := .data i) h (locate_of_address rfl) nofun 0, rfl⟩
  case frame => exact ⟨_, run_write (r := .frame i) h (locate_of_address rfl) nofun 0, rfl⟩

end Sys2Proof.Machine
end
